-- ==== Sys2Proof/Word.lean ====
section
/-! DEFINITION. The plain types of the model: bytes, the numbers of ports, heads and records, and tables of a fixed
number of like things. Quantities (cents, rate units, pieces, days) are natural numbers: the manual's quantities are
unsigned integers with ranges, computed exactly (00_scope 2.1, R21). -/

namespace Sys2Proof

/-- One byte of a frame. -/
abbrev Byte := BitVec 8

/-- Ports 0 to 7 (00_scope 1.1, R169). -/
abbrev Port := Fin 8
/-- Heads 0 to 5, served by the ports of the same numbers (00_scope 2.3). -/
abbrev Head := Fin 6
/-- Slots of the open imprint table, 0 to 15 (R37). -/
abbrev SlotNo := Fin 16
/-- Rate classes 0 to 63 (R61). -/
abbrev ClassNo := Fin 64
/-- Stamp denomination entries 0 to 31 (R89). -/
abbrev EntryNo := Fin 32
/-- Watch channels 0 to 7 (R128). -/
abbrev ChannelNo := Fin 8
/-- Natural numbers of the notice sources and alarms, 0 to 35 (R145). -/
abbrev SourceNo := Fin 36

/-- A table of exactly `n` like things, numbered from 0. -/
structure Tab (α : Type) (n : Nat) where
  items : List α
  size : items.length = n
deriving DecidableEq, Repr

variable {α β : Type} {n : Nat}

/-- The thing numbered `i`. -/
def Tab.get (t : Tab α n) (i : Fin n) : α := t.items[i.val]'(by rw [t.size]; exact i.isLt)

/-- The table with the thing numbered `i` replaced. -/
def Tab.set (t : Tab α n) (i : Fin n) (x : α) : Tab α n :=
  ⟨t.items.set i.val x, by rw [List.length_set, t.size]⟩

/-- The table with the thing numbered `i` changed by `f`. -/
def Tab.modify (t : Tab α n) (i : Fin n) (f : α → α) : Tab α n := t.set i (f (t.get i))

/-- The table with every thing changed by `f`. -/
def Tab.map (t : Tab α n) (f : α → β) : Tab β n :=
  ⟨t.items.map f, by rw [List.length_map, t.size]⟩

/-- The table whose things are all `x`. -/
def Tab.fill (n : Nat) (x : α) : Tab α n := ⟨List.replicate n x, List.length_replicate⟩

/-- The sum of a figure over the table. -/
def Tab.sum (t : Tab α n) (f : α → Nat) : Nat := (t.items.map f).sum

/-- How many things of the table satisfy `p`. -/
def Tab.count (t : Tab α n) (p : α → Bool) : Nat := t.items.countP p

/-- The numbers 0 to `n - 1`, in ascending order. -/
def numbers (n : Nat) : List (Fin n) := List.finRange n

/-- The numbers of the things that satisfy `p`, in ascending order. -/
def Tab.indices (t : Tab α n) (p : α → Bool) : List (Fin n) :=
  (numbers n).filter fun i => p (t.get i)

/-- The lowest number whose thing satisfies `p`. -/
def Tab.first (t : Tab α n) (p : α → Bool) : Option (Fin n) :=
  (numbers n).find? fun i => p (t.get i)

/-- The number `i` as an index of a table of `n` things, when it is one. -/
def index (n i : Nat) : Option (Fin n) := if h : i < n then some ⟨i, h⟩ else none

/-- A set of heads, one mark per head. -/
abbrev HeadSet := Tab Bool 6
/-- A set of watch channels, one mark per channel. -/
abbrev ChannelSet := Tab Bool 8

end Sys2Proof
end

