-- ==== Sys2Proof/Syntax.lean ====
section
/-! DEFINITION. The commands of the part, one constructor per row of spec/opcode_table.json, with the operands the rules
give each. Request commands carry the fields their frame carries: the manual gives byte layouts for RESERVE and COMMIT
alone and names the fields of every other request (00_scope 0.4); DESIGN CHOICE, log 2. -/

namespace Sys2Proof

/-- How a lane's gross figure is turned into cents (R22). -/
inductive RoundingMode where
  | halfUp | chopCarry
deriving DecidableEq, Repr

/-- What a watch channel counts (R128). -/
inductive WatchSource where
  | days | pieces | refills
deriving DecidableEq, Repr

/-- Whether a load starts a channel at once or at its first event (R128). -/
inductive WatchStart where
  | auto | onFirst
deriving DecidableEq, Repr

/-- What a channel does at zero (R128). -/
inductive WatchAction where
  | notice | inhibit | noticeInhibit
deriving DecidableEq, Repr

/-- A coded field of a frame: one of its values, or a code that is none of them. -/
inductive Coded (α : Type) where
  | known (a : α)
  | unknown
deriving DecidableEq, Repr

/-- An item that may be left unchanged (R12, R18), or a choice the part does not recognise. -/
inductive Choice (α : Type) where
  | leave
  | value (a : α)
  | unrecognised
deriving DecidableEq, Repr

/-- The daily cap item of SET_HEAD (R18). -/
inductive CapChoice where
  | leave
  | absent
  | value (cents : Nat)
  | unrecognised
deriving DecidableEq, Repr

/-- The choice FAULT_ENABLE carries for one record class (R156). -/
inductive EnableChoice where
  | leave | enable | disable | unrecognised
deriving DecidableEq, Repr

/-- The residue choice of COMPARE (R34). -/
inductive ResidueChoice where
  | any
  | value (r : Nat)
  | own
  | unrecognised
deriving DecidableEq, Repr

/-- The position DAY_LOG_READ carries (R126). -/
inductive DayPosition where
  | position (n : Nat)
  | current
  | unrecognised
deriving DecidableEq, Repr

/-- The operation of WATCH_SET (R130); the reload of a LOAD is 0 to 65,535, where 0 stands for 65,536. -/
inductive WatchOp where
  | load (reload : Nat)
  | stop
  | none
deriving DecidableEq, Repr

/-- The five fields of a rate entry as SET_RATE carries them (R64). -/
structure RateFields where
  unitRate : Nat
  supplement : Nat
  rounding : Coded RoundingMode
  minimum : Nat
  fallback : Option Nat
deriving DecidableEq, Repr

/-- The control fields of WATCH_SET (R130); each mask is the list of the heads it names. -/
structure ControlFields where
  source : Coded WatchSource
  headMask : List Nat
  prescale : Nat
  start : Coded WatchStart
  action : Coded WatchAction
  inhibitMask : List Nat
deriving DecidableEq, Repr

/-- The body of a RESERVE frame by R176: the frame's length in groups and the fields at bytes 3 to 9. Lane B is
carried when the length is 3 groups. -/
structure ReserveBody where
  groups : Nat
  laneCount : Nat
  classA : Nat
  piecesA : Nat
  classB : Nat
  piecesB : Nat
deriving DecidableEq, Repr

/-- The body of a COMMIT frame by R176: the frame's length in groups and the fields at bytes 3 to 8. The count of lane B
is carried when the length is 3 groups. -/
structure CommitBody where
  groups : Nat
  tag : Nat
  piecesA : Nat
  piecesB : Nat
deriving DecidableEq, Repr

/-- One event of a watch channel's source with what WATCH_ZERO reports of it (R135, R139): the new business day of a
close, the head and tag of a settlement, or the voucher serial of a refill. -/
inductive SourceEvent where
  | day (newDay : Nat)
  | pieces (head : Head) (tag : Nat)
  | refill (serial : Nat)
deriving DecidableEq, Repr

/-- How far a READ transaction clocked the reply frame out before select was released: a number of bytes, or all the
bytes of the frame, however many its length byte announced (R173). -/
inductive ReadExtent where
  | bytes (n : Nat)
  | wholeFrame
deriving DecidableEq, Repr

/-- What every request command carries: the sending port, the request number of byte 2, and whether the body has the
shape the request needs (for a request whose body is empty: that it is empty). -/
structure Req where
  port : Port
  number : Byte
  fits : Bool
deriving DecidableEq, Repr

/-- The commands: one constructor per row of spec/opcode_table.json. -/
inductive Instr where
  -- transactions of a port link (R169 to R173)
  | status (p : Port) (selector : Byte)
  | send (p : Port) (frame : List Byte)
  | read (p : Port) (extent : ReadExtent)
  -- the pool and the heads
  | poolRead (q : Req)
  | headRead (q : Req) (head : Nat)
  | setLimits (q : Req) (ceiling threshold floor : Choice Nat)
  | setHead (q : Req) (head : Nat) (enabled : Choice Bool) (hold : Choice Nat) (cap : CapChoice)
  -- service
  | serviceRead (q : Req)
  | commission (q : Req) (licence ceiling threshold : Nat)
  | unlock (q : Req)
  -- imprints
  | reserve (q : Req) (body : ReserveBody)
  | commit (q : Req) (body : CommitBody)
  | cancel (q : Req) (tag : Nat)
  | listOpen (q : Req) (head : Option Nat)
  | compare (q : Req) (x y pieces : Nat) (residue : ResidueChoice)
  -- rates
  | rateRead (q : Req) (cls : Nat)
  | setRate (q : Req) (cls : Nat) (fields : RateFields) (effective : Nat)
  | withdrawRate (q : Req) (cls effective : Nat)
  -- credit in and out
  | refill (q : Req) (serial amount licence : Nat)
  | returnCredit (q : Req) (amount : Nat)
  | decommission (q : Req)
  | refillLogRead (q : Req) (offset count : Nat)
  -- stamps
  | stockDefine (q : Req) (entry denomination : Nat)
  | stockRetire (q : Req) (entry : Nat)
  | stockReceive (q : Req) (entry stamps : Nat)
  | stockIssue (q : Req) (entry stamps : Nat)
  | stockSpoil (q : Req) (entry stamps : Nat)
  | stockCount (q : Req) (entry counted : Nat)
  | stockClearMismatch (q : Req) (entry : Nat)
  | stockRead (q : Req) (entry : Nat)
  -- the journal and the days
  | journalRead (q : Req) (offset count : Nat)
  | journalAck (q : Req) (number : Nat)
  | dayClose (q : Req) (day : Nat)
  | dayLogRead (q : Req) (position : DayPosition)
  -- watch channels
  | watchSet (q : Req) (channel : Nat) (fields : ControlFields) (op : Coded WatchOp)
  | watchRelease (q : Req) (channel : Nat)
  | watchRead (q : Req) (channel : Nat)
  | watchChannelZero (channel : ChannelNo) (event : SourceEvent)
  -- notices
  | takeNotice (q : Req)
  | noticeDone (q : Req)
  | noticeHold (q : Req) (count : Nat)
  | holdCountEnd (p : Port)
  | noticeLevel (q : Req) (source level : Nat)
  | noticeNesting (q : Req) (option : Coded Bool)
  | faultRead (q : Req)
  | clearFault (q : Req)
  | faultEnable (q : Req) (unsetRate funds limit late : EnableChoice)
  -- events
  | timeBaseSecond
  | holdFallsDue (slot : SlotNo)
  | holdExpiry (slot : SlotNo)
  | timeBaseTimeout
  | tamperInputActive
  | tamperInputInactive
  | supplyLowInput
  | supplyAdequateInput
  | resetAsserted
  | restart (tamperActive supplyLow : Bool)
  | coldStart (tamperActive supplyLow : Bool)
deriving DecidableEq, Repr

end Sys2Proof
end

