-- ==== Sys2Proof/Machine/Records.lean ====
section
/-! DEFINITION. The records the part keeps and the items its replies carry, as plain data. Every record is named and ranged
by the rule its docstring cites; optional fields are `Option` (00_scope 2.2: absent is a state of its own). -/

namespace Sys2Proof.Machine

/-- The service state (R158). -/
inductive ServiceState where
  | blank | inService | halted | lockdown | withdrawn
deriving DecidableEq, Repr

/-- How an open imprint was closed (R16). -/
inductive ClosureKind where
  | committed | cancelled | expired | restartCharged
deriving DecidableEq, Repr

/-- The reply codes of R175. -/
inductive ReplyCode where
  | ok | none | duplicate | format | role | state | disabled | inhibited | unsetRate | belowMin | headLimit | tableFull
  | journalFull | funds | ascLimit | dayCap | exceeds | notOwner | tooLate | noSuchTag | sequence | licence | ceiling
  | floor | openImprints | entry | notEmpty | short | stockLimit | count | wrongDay | lastDay | notInService | condition
deriving DecidableEq, Repr

/-- The credit pool record (R1). -/
structure Pool where
  descending : Nat
  reservedTotal : Nat
  fundedTotal : Nat
  returnedTotal : Nat
  stockPurchaseTotal : Nat
  ceiling : Nat
  threshold : Nat
  floor : Option Nat
  lowCreditArmed : Bool
  licence : Nat
  day : Nat
  lastVoucher : Nat
  movementSequence : Nat
  nextTag : Nat
deriving DecidableEq, Repr

/-- A head record (R13). The closed-tag ring is held newest first. -/
structure HeadRecord where
  ascending : Nat
  headReserved : Nat
  pieceCounter : Nat
  wrapCount : Nat
  residue : Nat
  usedToday : Nat
  dailyCap : Option Nat
  holdTime : Nat
  enabled : Bool
  inhibitHolders : ChannelSet
  imprintNumber : Nat
  ring : List (Nat × ClosureKind)
deriving DecidableEq, Repr

/-- The five fields of a SET rate entry (R61). -/
structure RateEntry where
  unitRate : Nat
  supplement : Nat
  rounding : RoundingMode
  minimum : Nat
  fallback : Option ClassNo
deriving DecidableEq, Repr

/-- A pending entry (R63): its effective day, and a replacement or, when the content is absent, a withdrawal. -/
structure PendingEntry where
  effective : Nat
  content : Option RateEntry
deriving DecidableEq, Repr

/-- A rate class (R61): its active entry, absent when UNSET, and its pending slot. -/
structure RateClass where
  active : Option RateEntry
  waiting : Option PendingEntry
deriving DecidableEq, Repr

/-- A lane of an open record (R38). -/
structure Lane where
  cls : ClassNo
  pieces : Nat
  classCopy : RateEntry
  fallbackCopy : Option RateEntry
  reserve : Nat
deriving DecidableEq, Repr

/-- An open imprint record (R38); `handed` says that its expiry has been handed to the engine and not yet taken (R52). -/
structure OpenImprint where
  tag : Nat
  head : Head
  imprintNumber : Nat
  dayReserved : Nat
  laneA : Lane
  laneB : Option Lane
  total : Nat
  holdRemaining : Nat
  handed : Bool
deriving DecidableEq, Repr

/-- The state of a stock entry; an ACTIVE or RETIRED entry holds its denomination in cents (R89). -/
inductive StockState where
  | unused
  | active (denomination : Nat)
  | retired (denomination : Nat)
deriving DecidableEq, Repr

/-- A stamp denomination entry (R89); `lastCounted` is a count with the business day it was taken on. -/
structure StockEntry where
  state : StockState
  onHand : Nat
  received : Nat
  issued : Nat
  spoiled : Nat
  mismatch : Bool
  lastCounted : Option (Nat × Nat)
deriving DecidableEq, Repr

/-- The stock table's day totals (R91). -/
structure StockDay where
  purchaseValue : Nat
  stampsIssued : Nat
  stampsSpoiled : Nat
deriving DecidableEq, Repr

/-- The kinds of a journal entry (R105). -/
inductive EntryKind where
  | commit | expiryCharge | restartCharge | refill | returned | stockReceive | stockIssue | stockSpoil | dayClose
deriving DecidableEq, Repr

/-- A movement journal entry (R105). -/
structure JournalEntry where
  sequence : Nat
  kind : EntryKind
  day : Nat
  port : Port
  head : Option Head
  tag : Option Nat
  pieces : Option Nat
  amount : Nat
  returnedRemainder : Option Nat
  residueAfter : Option Nat
  descendingAfter : Nat
deriving DecidableEq, Repr

/-- The per-head day accumulators (R114). -/
structure HeadDay where
  piecesSettled : Nat
  valueSettled : Nat
  expiries : Nat
deriving DecidableEq, Repr

/-- The day accumulators (R114). -/
structure Accumulators where
  heads : Tab HeadDay 6
  refillCount : Nat
  refillValue : Nat
deriving DecidableEq, Repr

/-- The figures of a day that its summary and the CURRENT reply report alike (R115, R121, R126). -/
structure DayFigures where
  day : Nat
  accumulators : Accumulators
  stock : StockDay
  descending : Nat
  reservedTotal : Nat
  openImprints : Nat
deriving DecidableEq, Repr

/-- Whether an applied pending entry was a replacement or a withdrawal (R70). -/
inductive PendingKind where
  | replacement | withdrawal
deriving DecidableEq, Repr

/-- A day summary (R115): the applied count is the length of the applied list. -/
structure DaySummary where
  figures : DayFigures
  closeSequence : Nat
  applied : List (ClassNo × PendingKind)
deriving DecidableEq, Repr

/-- A refill log entry (R81). -/
structure RefillEntry where
  serial : Nat
  amount : Nat
  day : Nat
  descendingAfter : Nat
deriving DecidableEq, Repr

/-- The audit store (R104, R108, R113, R114, R115, R81). The journal and the refill log are held oldest first, the day
log newest first. -/
structure Audit where
  journal : List JournalEntry
  claimed : Nat
  nearFullArmed : Bool
  accumulators : Accumulators
  dayLog : List DaySummary
  refillLog : List RefillEntry
deriving DecidableEq, Repr

/-- The state of a watch channel (R129). -/
inductive ChannelState where
  | unloaded | waiting | running | stopped
deriving DecidableEq, Repr

/-- The prescale of a watch channel, 1 or 100 (R128). -/
inductive Prescale where
  | one | hundred
deriving DecidableEq, Repr

/-- A watch channel (R128). -/
structure Channel where
  state : ChannelState
  source : WatchSource
  headMask : HeadSet
  prescale : Prescale
  prescaleCount : Nat
  start : WatchStart
  action : WatchAction
  inhibitMask : HeadSet
  reload : Nat
  pendingReload : Option Nat
  heldSource : Option WatchSource
  heldPrescale : Option Prescale
  count : Nat
deriving DecidableEq, Repr

/-- The detail of a notice (R145, R177). -/
inductive Detail where
  | watchZero (channel : ChannelNo) (count : Nat) (event : SourceEvent)
  | imprintExpired (tag imprintNumber : Nat)
  | headInhibited (channel : ChannelNo)
  | lowCredit (descending threshold : Nat)
  | refillAccepted (serial amount descendingAfter : Nat)
  | tariffApplied (count newDay : Nat)
  | stockMismatch (entry : EntryNo) (counted onHand day : Nat)
  | portFault (code : ReplyCode) (number : Option Byte)
  | alarm (day : Nat) (state : ServiceState)
  | nearFull (free unacknowledged claimed : Nat)
deriving DecidableEq, Repr

/-- A pending source: its again-count and the detail of its newest raise (R144, R146). -/
structure Raised where
  again : Nat
  detail : Detail
deriving DecidableEq, Repr

/-- The notice state of a port beside its pending sources and their levels (R144). The stack is held top first. -/
structure NoticePort where
  stack : List Nat
  holdCount : Nat
  noNesting : Bool
deriving DecidableEq, Repr

/-- The notice unit (R144). Each source has one destination port (R145), so a port's pending set is the pending
sources whose destination it is. -/
structure NoticeUnit where
  pending : Tab (Option Raised) 36
  levels : Tab Nat 32
  ports : Tab NoticePort 8
deriving DecidableEq, Repr

/-- Service control (R158). -/
structure Service where
  state : ServiceState
  returnState : Option ServiceState
  tamperActive : Bool
  supplyLow : Bool
  timeBaseLost : Bool
deriving DecidableEq, Repr

/-- A port fault record (R155). -/
structure FaultRecord where
  sticky : Bool
  code : Option ReplyCode
  number : Option Byte
  unsetRateEnabled : Bool
  fundsEnabled : Bool
  limitEnabled : Bool
  lateEnabled : Bool
deriving DecidableEq, Repr

/-- The lanes of a reserve or commit reply, and the sides of a COMPARE (R23, R34). -/
inductive LaneName where
  | a | b
deriving DecidableEq, Repr

/-- Which copy priced a lane (R49). -/
inductive Effective where
  | cls | fallback | none
deriving DecidableEq, Repr

/-- One lane of the reply to a COMMIT (R49). -/
structure LaneResult where
  pieces : Nat
  effective : Effective
  charge : Nat
deriving DecidableEq, Repr

/-- One record of the reply to LIST_OPEN (R56): per lane, the class and the reserved pieces. -/
structure OpenItem where
  slot : SlotNo
  tag : Nat
  head : Head
  imprintNumber : Nat
  dayReserved : Nat
  laneA : ClassNo × Nat
  laneB : Option (ClassNo × Nat)
  total : Nat
  holdRemaining : Nat
deriving DecidableEq, Repr

/-- The figures of one side of a COMPARE (R35). -/
structure SideResult where
  effective : Effective
  reserve : Nat
  least : Nat
  greatest : Nat
deriving DecidableEq, Repr

/-- The ordering result of a COMPARE (R36). -/
inductive Ordering where
  | less | greater | equal | unordered
deriving DecidableEq, Repr

/-- The residue choice a COMPARE reply reports as applied (R36). -/
inductive AppliedResidue where
  | any
  | value (r : Nat)
  | own (r : Nat)
deriving DecidableEq, Repr

/-- What SET_RATE or WITHDRAW_RATE did (R67). -/
inductive Disposition where
  | active | pending
deriving DecidableEq, Repr

/-- What became of the slot's earlier pending entry (R67). -/
inductive PendingFate where
  | none | discarded | replaced
deriving DecidableEq, Repr

/-- The limit a refill refused CEILING ran into (R79). -/
inductive CeilingLimit where
  | pool | funded
deriving DecidableEq, Repr

/-- The operation of a WATCH_SET as the engine applied it (R134). -/
inductive AppliedOp where
  | loaded | pending | stop | none
deriving DecidableEq, Repr

/-- The channel as the reply to a WATCH_SET reports it (R134). -/
structure ChannelReport where
  state : ChannelState
  count : Nat
  prescaleCount : Nat
  reload : Nat
  pendingReload : Option Nat
  heldSource : Option WatchSource
  heldPrescale : Option Prescale
deriving DecidableEq, Repr

/-- The notice record of a TAKE_NOTICE reply (R149). -/
structure NoticeRecord where
  source : SourceNo
  level : Nat
  pushed : Nat
  again : Nat
  detail : Detail
  stillPending : Nat
  newTop : Nat
deriving DecidableEq, Repr

/-- What a reply carries beside its header: one constructor per shape of reply, with the items its rule names. -/
inductive ReplyBody where
  /-- No body. -/
  | none
  | pool (pool : Pool)
  /-- HEAD_READ's items (R19), and the head's number, which R19 does not name among them (DESIGN CHOICE, log 32). -/
  | head (h : Head) (record : HeadRecord) (holders : List ChannelNo) (openRecords : Nat)
  | limits (ceiling threshold : Nat) (floor : Option Nat)
  | headConfig (enabled : Bool) (holdTime : Nat) (cap : Option Nat)
  | service (service : Service) (alarms : List SourceNo)
  | commissioned (source : ServiceState) (day licence ceiling threshold : Nat)
  | condition (tamperActive : Bool) (alarms : List SourceNo)
  | unlocked (entered : ServiceState)
  | lane (failed : LaneName)
  | reserved (tag imprintNumber reserveA : Nat) (reserveB : Option Nat) (total holdTime : Nat)
  | committed (tag imprintNumber : Nat) (laneA : LaneResult) (laneB : Option LaneResult) (charge remainder residue : Nat)
  | closedAs (kind : ClosureKind)
  | cancelled (tag imprintNumber amount : Nat)
  | openList (records : List OpenItem)
  | side (failed : LaneName)
  | compared (x y : SideResult) (result : Ordering) (residue : AppliedResidue)
  | rateClass (number : ClassNo) (entry : RateClass)
  | formatLine (line : Nat)
  | rateChanged (number : ClassNo) (disposition : Disposition) (dayOfEffect : Nat) (fate : PendingFate)
  | refilled (serial amount descending fundedTotal : Nat)
  | duplicate (amount day descendingAfter : Nat) (same : Bool)
  | expected (serial : Option Nat)
  | headroom (limit : CeilingLimit) (cents : Nat)
  | returned (amount descending returnedTotal : Nat)
  | descendingFound (descending : Nat)
  | decommissioned (amount returnedTotal : Nat)
  | openSlots (number : Nat)
  | refillLog (entries : List RefillEntry) (held lastVoucher : Nat)
  | stockDefined (entry : EntryNo) (denomination : Nat)
  /-- The state an ENTRY reply reports (R93 to R95); with an ACTIVE or RETIRED state stands its denomination, which the rules
  do not name for it (DESIGN CHOICE, log 30). -/
  | entryState (state : StockState)
  | entryOnHand (onHand : Nat)
  | stockRetired (entry : EntryNo) (received issued spoiled : Nat)
  | stockReceived (entry : EntryNo) (stamps value onHand received descending : Nat)
  | entryReceived (received : Nat)
  | stockFunds (value descending : Nat)
  | stockFloor (value descending floor : Nat)
  | stockMoved (entry : EntryNo) (stamps onHand moved : Nat)
  | stockCounted (entry : EntryNo) (counted onHand : Nat) (agrees : Bool)
  | mismatchCleared (entry : EntryNo) (wasSet : Bool)
  | stockEntry (number : EntryNo) (entry : StockEntry) (valueOnHand : Nat) (day : StockDay)
  | journalWindow (count : Nat) (entries : List JournalEntry) (unacknowledged claimed free oldest : Nat)
  | unacknowledged (number : Nat)
  | acknowledged (removed unacknowledged claimed free oldest : Nat)
  | currentDay (day : Nat)
  | dayClosed (day newDay closeSequence appliedCount openImprints daysZeros : Nat)
  | daySummary (summary : Option DaySummary) (held day : Nat)
  | dayCurrent (figures : DayFigures) (usedToday : List Nat) (dueNext held day : Nat)
  | watchSet (channel : ChannelNo) (report : ChannelReport) (op : AppliedOp)
  | watchReleased (channel : ChannelNo) (heads : List Head)
  /-- WATCH_READ's items (R142), and the channel's number, which R142 does not name among them (DESIGN CHOICE, log 32). -/
  | watch (channel : ChannelNo) (fields : Channel) (heads : List Head)
  | notice (record : NoticeRecord)
  | noNotice (pending top : Nat)
  | noticeDone (removed newTop : Nat)
  | holdCount (count : Nat)
  | noticeLevel (source level : Nat) (discarded : Bool)
  | noticeNesting (on : Bool)
  | faultRecord (record : FaultRecord)
deriving DecidableEq, Repr

/-- The four result flags (R20). -/
structure ResultFlags where
  z : Bool
  l : Bool
  w : Bool
  c : Bool
deriving DecidableEq, Repr

/-- A reply as the reply slot holds it: the header's items (R176) and the body. -/
structure Reply where
  code : ReplyCode
  number : Byte
  flags : ResultFlags
  body : ReplyBody
deriving DecidableEq, Repr

/-- A request that waits in its slot: the bytes a SEND clocked in, or a request command that came whole and waits for
its turn (log 3). -/
inductive SlotContent where
  | frame (bytes : List Byte)
  | command (c : Instr)
deriving DecidableEq, Repr

/-- What a port's last transaction clocked out (R169, R173): the status byte, and the bytes after it. The model's own
record of an output, written by STATUS, SEND and READ alone and not by a request command that brings its own frame
(DESIGN CHOICE, log 12). -/
structure Clocked where
  status : Byte
  data : List Byte
deriving DecidableEq, Repr

/-- The context of a port link (R170, R171, R155). -/
structure PortLink where
  slot : Option SlotContent
  reply : Option Reply
  overrun : Bool
  fault : FaultRecord
  out : Option Clocked
deriving DecidableEq, Repr

/-- Where the arbiter's search for a grant stands (R174): a search not yet begun starts at the last-served port plus one;
a search that came to port 0 and found handed expiries takes those, and then goes on with port 0. -/
inductive SearchPlace where
  | fresh | atExpiries | pastExpiries
deriving DecidableEq, Repr

end Sys2Proof.Machine
end

