-- ==== Sys2Proof/Config.lean ====
section
/-! DEFINITION. The part's fixed limits, and the free values: uninterpreted constants for what the manual leaves open. -/

namespace Sys2Proof.Config

open Sys2Proof.Machine

/-- The movement journal's entries (R104). -/
def journalCapacity : Nat := 512
/-- The day log's summaries (R115). -/
def dayLogCapacity : Nat := 16
/-- The refill log's entries (R81). -/
def refillLogCapacity : Nat := 32
/-- A closed-tag ring's entries (R16). -/
def ringCapacity : Nat := 4
/-- Open records of one head (R39). -/
def headLimit : Nat := 4
/-- The top of descending, the ceiling, the threshold, the floor and the daily cap (R1, R13). -/
def maxPool : Nat := 9999999999
/-- The top of the pool's totals (R1). -/
def maxTotal : Nat := 999999999999999
/-- The top of ascending plus head reserved (R14). -/
def maxAscending : Nat := 99999999999
/-- The top of the business day, the voucher serial and the movement sequence (R1). -/
def max32 : Nat := 4294967295
/-- The top of the licence number (R1). -/
def maxLicence : Nat := 99999999
/-- The top of one refill (R76). -/
def maxRefill : Nat := 999999999
/-- The top of a stamp count and of the piece counter (R89, R13). -/
def maxCount : Nat := 99999999
/-- The top of a lane's pieces (R38). -/
def maxPieces : Nat := 9999
/-- The longest frame a request slot holds, in bytes (R171). -/
def slotBytes : Nat := 64

/-- FREE VALUE (log 10). Whether a request that carries no fields, and of which no rule says that its body must be empty
(SERVICE_READ, TAKE_NOTICE, NOTICE_DONE, FAULT_READ, CLEAR_FAULT, by request code), is answered FORMAT when its frame has
a body (R176), or ignores the body as padding (R172). -/
opaque bodyMustBeEmpty : Nat → Bool

/-- FREE VALUE (log 11). The length, in groups beyond the first two, of a reply frame whose layout the manual does not
give. A body needs at least a second group, and a reply frame runs to 255 groups at most (R176). -/
opaque replyGroups : ReplyBody → Fin 254

/-- FREE VALUE (log 11). Byte `4 + i` of a reply frame whose body the manual gives no layout: how the items that the body's
rule names stand in the bytes after the header (R176). -/
opaque replyBodyByte : ReplyBody → Nat → Byte

/-- FREE VALUE (log 31). The request-number byte in the detail of a PORT_FAULT whose request number is absent: R177 gives
that byte a place and no value. -/
opaque absentNumber : Byte

end Sys2Proof.Config
end

