-- ==== Sys2Proof/Machine/Charge.lean ====
section
/-! DEFINITION. Charge computation (chapter 2): the reserve amount of a lane, the charge at settlement, and the figures of
COMPARE. Everything is exact arithmetic on natural numbers (R21). -/

namespace Sys2Proof.Machine

/-- The dearer of a class entry's figure and its fallback entry's (R24). -/
def dearer (f : RateEntry → Nat) (c : RateEntry) (fb : Option RateEntry) : Nat :=
  match fb with
  | none => f c
  | some e => max (f c) (f e)

/-- The lane reserve in cents (R24): the gross figure at the dearer rate rounded up, plus the dearer supplement. -/
def laneReserve (c : RateEntry) (fb : Option RateEntry) (pieces : Nat) : Nat :=
  (pieces * dearer RateEntry.unitRate c fb + 9) / 10 + dearer RateEntry.supplement c fb

/-- A lane of `pieces` of class `cls` priced by the rate table, with its copies and its lane reserve, or the refusal of
the rate checks (R22, R23, R24). -/
def priceLane (rates : Tab RateClass 64) (cls : ClassNo) (pieces : Nat) : Except ReplyCode Lane :=
  match (rates.get cls).active with
  | none => .error .unsetRate
  | some c =>
    match c.fallback with
    | none =>
      if pieces < c.minimum then .error .belowMin
      else .ok ⟨cls, pieces, c, none, laneReserve c none pieces⟩
    | some f =>
      match (rates.get f).active with
      | none => .error .unsetRate
      | some e => .ok ⟨cls, pieces, c, some e, laneReserve c (some e) pieces⟩

/-- The total reserve of the lanes (R25). -/
def totalReserve (a : Lane) (b : Option Lane) : Nat := a.reserve + (b.map Lane.reserve).getD 0

/-- The effective entry of a lane at a settlement of `p` pieces, 1 or more (R26). -/
def effectiveEntry (l : Lane) (p : Nat) : Effective × RateEntry :=
  match l.fallbackCopy with
  | none => (.cls, l.classCopy)
  | some f => if l.classCopy.minimum ≤ p then (.cls, l.classCopy) else (.fallback, f)

/-- One lane worked at a settlement: its effective entry, its charge, and the residue it leaves. -/
structure LaneWork where
  effective : Effective
  charge : Nat
  residue : Nat
deriving DecidableEq, Repr

/-- The charge of a lane of gross figure `g` under entry `e` with residue `r`, and the residue it leaves: HALF_UP by R27,
CHOP_CARRY by R28. -/
def entryCharge (e : RateEntry) (g r : Nat) : Nat × Nat :=
  match e.rounding with
  | .halfUp => ((g + 5) / 10 + e.supplement, r)
  | .chopCarry => ((g + r) / 10 + e.supplement, (g + r) % 10)

/-- The charge of one lane that reports `p` pieces with residue `r` carried in (R26 to R29). -/
def workLane (l : Lane) (p r : Nat) : LaneWork :=
  if p = 0 then ⟨.none, 0, r⟩
  else
    let e := effectiveEntry l p
    let c := entryCharge e.2 (p * e.2.unitRate) r
    ⟨e.1, c.1, c.2⟩

/-- The lanes of an imprint worked in order, lane A and then lane B (R30). -/
structure ImprintWork where
  laneA : LaneWork
  laneB : Option LaneWork
  charge : Nat
  residue : Nat
deriving DecidableEq, Repr

/-- The imprint charge and the final residue of a settlement that reports `pa` and `pb` pieces (R30); `pb` counts for a
record of two lanes alone. -/
def workImprint (a : Lane) (b : Option Lane) (pa pb r : Nat) : ImprintWork :=
  let wa := workLane a pa r
  match b with
  | none => ⟨wa, none, wa.charge, wa.residue⟩
  | some l =>
    let wb := workLane l pb wa.residue
    ⟨wa, some wb, wa.charge + wb.charge, wb.residue⟩

/-- The reserved pieces of all lanes (R15, R33). -/
def reservedPieces (a : Lane) (b : Option Lane) : Nat := a.pieces + (b.map Lane.pieces).getD 0

/-- The residue a forfeit leaves: every lane worked at its reserved pieces (R33). -/
def forfeitResidue (a : Lane) (b : Option Lane) (r : Nat) : Nat :=
  (workImprint a b a.pieces ((b.map Lane.pieces).getD 0) r).residue

/-- The least of a list of charges that is not empty. -/
def leastOf : List Nat → Nat
  | [] => 0
  | x :: xs => xs.foldl min x

/-- The greatest of a list of charges. -/
def greatestOf (xs : List Nat) : Nat := xs.foldl max 0

/-- The charges of a side of a COMPARE, one per residue of the set (R35). -/
def sideCharges (l : Lane) (rs : List Nat) : List Nat := rs.map fun r => (workLane l l.pieces r).charge

/-- The figures of a side of a COMPARE (R35). -/
def sideResult (l : Lane) (rs : List Nat) : SideResult where
  effective := (effectiveEntry l l.pieces).1
  reserve := l.reserve
  least := leastOf (sideCharges l rs)
  greatest := greatestOf (sideCharges l rs)

/-- The ordering result of a COMPARE (R36). -/
def compareCharges (xs ys : List Nat) : Ordering :=
  let pairs := xs.zip ys
  if pairs.all fun c => decide (c.1 < c.2) then .less
  else if pairs.all fun c => decide (c.2 < c.1) then .greater
  else if pairs.all fun c => decide (c.1 = c.2) then .equal
  else .unordered

end Sys2Proof.Machine
end

