-- ==== Sys2Proof/Machine/Cold.lean ====
section
/-! DEFINITION. The value each record takes at a cold start (R1, R13, R37, R61, R89, R91, R104, R108, R113, R114, R128,
R144, R155, R158, R168, R170, R174), and the reset values of the port contexts and the notice unit, which a restart sets
too (R144, R155, R166, R170, R171). -/

namespace Sys2Proof.Machine

/-- The credit pool record after a cold start (R1). -/
def coldPool : Pool where
  descending := 0
  reservedTotal := 0
  fundedTotal := 0
  returnedTotal := 0
  stockPurchaseTotal := 0
  ceiling := 0
  threshold := 0
  floor := none
  lowCreditArmed := false
  licence := 0
  day := 0
  lastVoucher := 0
  movementSequence := 0
  nextTag := 1

/-- A head record after a cold start (R13). -/
def coldHead : HeadRecord where
  ascending := 0
  headReserved := 0
  pieceCounter := 0
  wrapCount := 0
  residue := 0
  usedToday := 0
  dailyCap := none
  holdTime := 60
  enabled := true
  inhibitHolders := Tab.fill 8 false
  imprintNumber := 1
  ring := []

/-- A rate class after a cold start: UNSET, with its pending slot absent (R61). -/
def coldRate : RateClass := ⟨none, none⟩

/-- A stock entry after a cold start (R89). -/
def coldStock : StockEntry where
  state := .unused
  onHand := 0
  received := 0
  issued := 0
  spoiled := 0
  mismatch := false
  lastCounted := none

/-- The stock day totals of a day that has no movement yet (R91). -/
def emptyStockDay : StockDay := ⟨0, 0, 0⟩

/-- The day accumulators of a day that has no entry yet (R114). -/
def emptyAccumulators : Accumulators := ⟨Tab.fill 6 ⟨0, 0, 0⟩, 0, 0⟩

/-- The audit store after a cold start (R104, R108, R113, R114). -/
def coldAudit : Audit where
  journal := []
  claimed := 0
  nearFullArmed := true
  accumulators := emptyAccumulators
  dayLog := []
  refillLog := []

/-- A watch channel after a cold start (R128). -/
def coldChannel : Channel where
  state := .unloaded
  source := .days
  headMask := Tab.fill 6 false
  prescale := .one
  prescaleCount := 0
  start := .auto
  action := .notice
  inhibitMask := Tab.fill 6 false
  reload := 65536
  pendingReload := none
  heldSource := none
  heldPrescale := none
  count := 0

/-- The default level of notice source `n` (R145). -/
def defaultLevel (n : Nat) : Nat :=
  if 8 ≤ n ∧ n ≤ 13 then 5 else if 24 ≤ n ∧ n ≤ 31 then 3 else 2

/-- The default levels of the notice sources 0 to 31 (R145). -/
def defaultLevels : Tab Nat 32 := ⟨(List.range 32).map defaultLevel, rfl⟩

/-- The notice unit after either reset (R144). -/
def resetNotices : NoticeUnit where
  pending := Tab.fill 36 none
  levels := defaultLevels
  ports := Tab.fill 8 ⟨[], 0, false⟩

/-- A port fault record after either reset (R155). -/
def resetFault : FaultRecord := ⟨false, none, none, true, true, true, true⟩

/-- A port's context after either reset (R155, R170, R171). -/
def resetLink : PortLink := ⟨none, none, false, resetFault, none⟩

/-- Service control after a cold start that finds the tamper input inactive and the supply adequate (R158, R168). The
spec leaves the inputs open: DESIGN CHOICE, log 1. -/
def coldService : Service := ⟨.blank, none, false, false, false⟩

end Sys2Proof.Machine
end

