-- ==== Sys2Proof/Machine/State.lean ====
section
/-! DEFINITION. The state of the part, with the queue of commands that wait, and the part right after a cold start. -/

namespace Sys2Proof.Machine

/-- No rule of the manual stops the part: what it calls a fault is a refused request, a port fault record, a notice or an
alarm (R145, R153, R155), each an effect on the state. There is therefore no fault, and no step raises one (safe). -/
inductive Fault where
deriving DecidableEq, Repr

/-- The refusals of the model. -/
inductive Refusal where
  /-- Raised by `exec` for a command that has no meaning yet, by its mnemonic; no arm raises it (safe). -/
  | notModelled (mnemonic : String)
deriving DecidableEq, Repr

/-- The whole state of the part (00_scope 1.2). -/
structure State where
  /-- The credit pool record (R1). -/
  pool : Pool
  /-- The six head records (R13). -/
  heads : Tab HeadRecord 6
  /-- The open imprint table: a slot is absent when FREE (R37). -/
  slots : Tab (Option OpenImprint) 16
  /-- The rate table (R61). -/
  rates : Tab RateClass 64
  /-- The stock table's entries (R89). -/
  stock : Tab StockEntry 32
  /-- The stock table's day totals (R91). -/
  stockDay : StockDay
  /-- The audit store (R104, R108, R113, R114, R115, R81). -/
  audit : Audit
  /-- The watch channels (R128). -/
  channels : Tab Channel 8
  /-- The notice unit (R144). -/
  notices : NoticeUnit
  /-- Service control (R158). -/
  service : Service
  /-- The port links with their fault records (R170, R171, R155). -/
  links : Tab PortLink 8
  /-- The request arbiter's last-served port (R174). -/
  lastServed : Port
  /-- Where the arbiter's search stands while the engine takes handed expiries (R174): the model's own field (log 4). -/
  search : SearchPlace
  /-- Whether the reset input is asserted (R169). -/
  resetHeld : Bool
  /-- The commands that wait, first in, first out: the model's own field (log 5). -/
  pending : List Instr
deriving DecidableEq, Repr

/-- The part right after a cold start that finds the tamper input inactive and the supply adequate (R168), with no
command waiting. -/
def State.reset : State where
  pool := coldPool
  heads := Tab.fill 6 coldHead
  slots := Tab.fill 16 none
  rates := Tab.fill 64 coldRate
  stock := Tab.fill 32 coldStock
  stockDay := emptyStockDay
  audit := coldAudit
  channels := Tab.fill 8 coldChannel
  notices := resetNotices
  service := coldService
  links := Tab.fill 8 resetLink
  lastServed := 7
  search := .fresh
  resetHeld := false
  pending := []

end Sys2Proof.Machine
end

