-- ==== Sys2Proof/Machine/Ops.lean ====
section
/-! DEFINITION. The named operations over the state: updates of one record, raising a notice or an alarm, the port fault
record, the journal, and the evaluations that follow a request. -/

namespace Sys2Proof.Machine

open Sys2Proof.Config

/-! ### Updates of one record -/

/-- The state with the pool record changed. -/
def modPool (f : Pool → Pool) (s : State) : State := { s with pool := f s.pool }
/-- The state with the record of head `h` changed. -/
def modHead (h : Head) (f : HeadRecord → HeadRecord) (s : State) : State := { s with heads := s.heads.modify h f }
/-- The state with slot `k` of the open imprint table set. -/
def setSlot (k : SlotNo) (o : Option OpenImprint) (s : State) : State := { s with slots := s.slots.set k o }
/-- The state with rate class `c` changed. -/
def modRate (c : ClassNo) (f : RateClass → RateClass) (s : State) : State := { s with rates := s.rates.modify c f }
/-- The state with stock entry `e` changed. -/
def modStock (e : EntryNo) (f : StockEntry → StockEntry) (s : State) : State := { s with stock := s.stock.modify e f }
/-- The state with the stock day totals changed. -/
def modStockDay (f : StockDay → StockDay) (s : State) : State := { s with stockDay := f s.stockDay }
/-- The state with the audit store changed. -/
def modAudit (f : Audit → Audit) (s : State) : State := { s with audit := f s.audit }
/-- The state with watch channel `c` set. -/
def setChannel (c : ChannelNo) (ch : Channel) (s : State) : State := { s with channels := s.channels.set c ch }
/-- The state with the notice unit changed. -/
def modNotices (f : NoticeUnit → NoticeUnit) (s : State) : State := { s with notices := f s.notices }
/-- The state with the stack, hold count or no-nesting option of port `p` changed. -/
def modNoticePort (p : Port) (f : NoticePort → NoticePort) (s : State) : State :=
  modNotices (fun u => { u with ports := u.ports.modify p f }) s
/-- The state with service control changed. -/
def modService (f : Service → Service) (s : State) : State := { s with service := f s.service }
/-- The state with the link of port `p` changed. -/
def modLink (p : Port) (f : PortLink → PortLink) (s : State) : State := { s with links := s.links.modify p f }

/-! ### Ports and heads -/

/-- The teller port (R169). -/
def tellerPort : Port := 6
/-- The funding port (R169). -/
def fundingPort : Port := 7
/-- The port that serves head `h` (R169). -/
def headPort (h : Head) : Port := ⟨h.val, by omega⟩
/-- The head that port `p` serves, when it is a head port (R169). -/
def portHead (p : Port) : Option Head := index 6 p.val

/-! ### Notice sources (R145) -/

/-- WATCH_ZERO of channel `c`. -/
def srcWatchZero (c : ChannelNo) : SourceNo := ⟨c.val, by omega⟩
/-- IMPRINT_EXPIRED of head `h`. -/
def srcImprintExpired (h : Head) : SourceNo := ⟨8 + h.val, by omega⟩
/-- HEAD_INHIBITED of head `h`. -/
def srcHeadInhibited (h : Head) : SourceNo := ⟨14 + h.val, by omega⟩
/-- LOW_CREDIT. -/
def srcLowCredit : SourceNo := 20
/-- REFILL_ACCEPTED. -/
def srcRefillAccepted : SourceNo := 21
/-- TARIFF_APPLIED. -/
def srcTariffApplied : SourceNo := 22
/-- STOCK_MISMATCH. -/
def srcStockMismatch : SourceNo := 23
/-- PORT_FAULT of port `p`. -/
def srcPortFault (p : Port) : SourceNo := ⟨24 + p.val, by omega⟩
/-- The hard alarm TAMPER. -/
def srcTamper : SourceNo := 32
/-- The hard alarm RETENTION_FAULT. -/
def srcRetentionFault : SourceNo := 33
/-- The hard alarm TIME_BASE_LOST. -/
def srcTimeBaseLost : SourceNo := 34
/-- The soft alarm JOURNAL_NEAR_FULL. -/
def srcNearFull : SourceNo := 35

/-- The fixed destination port of a source (R145). -/
def sourceDest (n : SourceNo) : Port :=
  if n.val < 4 then fundingPort
  else if n.val < 8 then tellerPort
  else if h : n.val < 14 then ⟨n.val - 8, by omega⟩
  else if h : n.val < 20 then ⟨n.val - 14, by omega⟩
  else if n.val < 23 then tellerPort
  else if n.val = 23 then fundingPort
  else if h : n.val < 32 then ⟨n.val - 24, by omega⟩
  else fundingPort

/-- The fixed level of an alarm (R145): 11 for TAMPER, 10 for RETENTION_FAULT, 9 for TIME_BASE_LOST, 8 for
JOURNAL_NEAR_FULL. -/
def alarmLevel (n : SourceNo) : Nat := 43 - n.val

/-- The level at which a source is weighed: the level set for a notice, the fixed level of an alarm (R145, R148). -/
def sourceLevel (u : NoticeUnit) (n : SourceNo) : Nat :=
  if h : n.val < 32 then u.levels.get ⟨n.val, h⟩ else alarmLevel n

/-- What a pending source becomes when it is raised with detail `d` (R146). -/
def raised (d : Detail) : Option Raised → Raised
  | none => ⟨0, d⟩
  | some r => ⟨min (r.again + 1) 255, d⟩

/-- A block raises source `n` with detail `d` (R146). -/
def raiseSource (n : SourceNo) (d : Detail) (s : State) : State :=
  if sourceLevel s.notices n = 0 then s
  else modNotices (fun u => { u with pending := u.pending.set n (some (raised d (u.pending.get n))) }) s

/-- The top of a stack: its uppermost level, or 0 when it is empty (R144). -/
def stackTop (stack : List Nat) : Nat := stack.headD 0

/-- Whether source `n` is eligible at its port: pending, and of a level above the top of the port's stack (R148). -/
def eligible (u : NoticeUnit) (n : SourceNo) : Bool :=
  (u.pending.get n).isSome && decide (stackTop (u.ports.get (sourceDest n)).stack < sourceLevel u n)

/-- The pending sources of port `p`, in ascending order (R144). -/
def pendingAt (u : NoticeUnit) (p : Port) : List SourceNo :=
  (numbers 36).filter fun n => decide (sourceDest n = p) && (u.pending.get n).isSome

/-- Whether port `p`'s attention line is driven (R148). -/
def attention (u : NoticeUnit) (p : Port) : Bool :=
  (pendingAt u p).any fun n =>
    eligible u n && (decide ((u.ports.get p).holdCount = 0) || decide (7 ≤ sourceLevel u n))

/-! ### Hard alarms and the service state (R153) -/

/-- The hard alarms, in ascending order of natural number. -/
def hardAlarms : List SourceNo := [srcTamper, srcRetentionFault, srcTimeBaseLost]

/-- Whether hard alarm `n` is pending at the funding port or its level stands on that port's stack (R153). -/
def alarmStands (u : NoticeUnit) (n : SourceNo) : Bool :=
  (u.pending.get n).isSome || (u.ports.get fundingPort).stack.contains (alarmLevel n)

/-- The hard alarms pending or in service at the funding port (R160, R165). -/
def standingAlarms (u : NoticeUnit) : List SourceNo := hardAlarms.filter (alarmStands u)

/-- Whether a hard alarm of a higher level than `n` stands (R153). -/
def alarmConflict (u : NoticeUnit) (n : SourceNo) : Bool :=
  hardAlarms.any fun m => decide (alarmLevel n < alarmLevel m) && alarmStands u m

/-- Entry to LOCKDOWN with the state to return to recorded (R158). -/
def enterLockdown (back : ServiceState) (v : Service) : Service :=
  { v with state := .lockdown, returnState := some back }

/-- The change of the service state that a hard alarm brings (R153): `lock` when the alarm is TAMPER or in conflict. -/
def alarmState (lock : Bool) (v : Service) : Service :=
  match v.state with
  | .blank => v
  | .inService => if lock then enterLockdown .inService v else { v with state := .halted }
  | .halted => if lock then enterLockdown .inService v else v
  | .lockdown => v
  | .withdrawn => if lock then enterLockdown .withdrawn v else v

/-- Service control raises hard alarm `n` (R145, R153); its detail carries the state at the raise. -/
def raiseAlarm (n : SourceNo) (s : State) : State :=
  modService (alarmState (decide (n = srcTamper) || alarmConflict s.notices n))
    (raiseSource n (.alarm s.pool.day s.service.state) s)

/-! ### The port fault record (R155) -/

/-- Whether a refusal with this code is recorded (R155). -/
def isRecorded (f : FaultRecord) : ReplyCode → Bool
  | .format | .role => true
  | .unsetRate | .belowMin => f.unsetRateEnabled
  | .funds | .floor | .ceiling | .short => f.fundsEnabled
  | .headLimit | .tableFull | .dayCap | .ascLimit | .journalFull | .stockLimit | .lastDay => f.limitEnabled
  | .tooLate | .noSuchTag => f.lateEnabled
  | _ => false

/-- A reply with this code is given on port `p`: a refusal of a class that is kept overwrites the record, sets the sticky
flag and raises PORT_FAULT (R155). -/
def recordRefusal (p : Port) (code : ReplyCode) (number : Option Byte) (s : State) : State :=
  if isRecorded (s.links.get p).fault code then
    raiseSource (srcPortFault p) (.portFault code number)
      (modLink p (fun l => { l with fault := { l.fault with sticky := true, code := some code, number := number } }) s)
  else s

/-! ### The journal (R104 to R108, R113, R114) -/

/-- The number of entries in the journal (R104). -/
def unacknowledged (s : State) : Nat := s.audit.journal.length

/-- The free journal entries (R108). -/
def journalFree (s : State) : Nat := journalCapacity - unacknowledged s - s.audit.claimed

/-- The oldest sequence (R107). -/
def oldestSequence (s : State) : Nat := (s.pool.movementSequence + (max32 + 1) - unacknowledged s) % (max32 + 1)

/-- The fields of a journal entry that its kind decides (R106). -/
structure EntryItems where
  head : Option Head
  tag : Option Nat
  pieces : Option Nat
  amount : Nat
  returnedRemainder : Option Nat
  residueAfter : Option Nat
deriving DecidableEq, Repr

/-- The items of an entry that names no head and no settlement (R106). -/
def plainItems (pieces : Option Nat) (amount : Nat) : EntryItems := ⟨none, none, pieces, amount, none, none⟩

/-- The accumulators of a head after a settlement entry (R114). -/
def settledDay (pieces amount expiries : Nat) (d : HeadDay) : HeadDay :=
  { piecesSettled := min (d.piecesSettled + pieces) max32
    valueSettled := d.valueSettled + amount
    expiries := min (d.expiries + expiries) 65535 }

/-- The day accumulators after an entry is written (R114). -/
def accumulate (kind : EntryKind) (i : EntryItems) (a : Accumulators) : Accumulators :=
  match kind, i.head with
  | .commit, some h => { a with heads := a.heads.modify h (settledDay (i.pieces.getD 0) i.amount 0) }
  | .expiryCharge, some h => { a with heads := a.heads.modify h (settledDay (i.pieces.getD 0) i.amount 1) }
  | .restartCharge, some h => { a with heads := a.heads.modify h (settledDay (i.pieces.getD 0) i.amount 0) }
  | .refill, _ => { a with refillCount := a.refillCount + 1, refillValue := a.refillValue + i.amount }
  | _, _ => a

/-- The entry that the audit store would write now: it takes the movement sequence, the current day and descending as
the movement left it (R106, R107). -/
def entryNow (kind : EntryKind) (p : Port) (i : EntryItems) (s : State) : JournalEntry where
  sequence := s.pool.movementSequence
  kind := kind
  day := s.pool.day
  port := p
  head := i.head
  tag := i.tag
  pieces := i.pieces
  amount := i.amount
  returnedRemainder := i.returnedRemainder
  residueAfter := i.residueAfter
  descendingAfter := s.pool.descending

/-- The audit store writes an entry at the newest end of the journal, and the movement sequence rises by one, wrapping
after 4,294,967,295 (R9, R104, R114). -/
def writeEntry (kind : EntryKind) (p : Port) (i : EntryItems) (s : State) : State :=
  modPool (fun q => { q with movementSequence := (q.movementSequence + 1) % (max32 + 1) })
    (modAudit (fun a => { a with
      journal := a.journal ++ [entryNow kind p i s]
      accumulators := accumulate kind i a.accumulators }) s)

/-- The near-full evaluation (R113). -/
def evaluateNearFull (s : State) : State :=
  if journalFree s < 32 ∧ s.audit.nearFullArmed = true then
    raiseSource srcNearFull (.nearFull (journalFree s) (unacknowledged s) s.audit.claimed)
      (modAudit (fun a => { a with nearFullArmed := false }) s)
  else if 64 ≤ journalFree s then modAudit (fun a => { a with nearFullArmed := true }) s
  else s

/-- An entry written without a claim, with the near-full evaluation that follows it (R109, R113). -/
def writeFree (kind : EntryKind) (p : Port) (i : EntryItems) (s : State) : State :=
  evaluateNearFull (writeEntry kind p i s)

/-- An entry written through a settlement's claim, which is consumed (R108). -/
def writeClaimed (kind : EntryKind) (p : Port) (i : EntryItems) (s : State) : State :=
  modAudit (fun a => { a with claimed := a.claimed - 1 }) (writeEntry kind p i s)

/-- An accepted reserve takes a claim (R108). -/
def takeClaim (s : State) : State :=
  evaluateNearFull (modAudit (fun a => { a with claimed := a.claimed + 1 }) s)

/-- An accepted cancel releases its claim (R108). -/
def releaseClaim (s : State) : State :=
  evaluateNearFull (modAudit (fun a => { a with claimed := a.claimed - 1 }) s)

/-! ### The open imprint table -/

/-- The number of OPEN slots (R37). -/
def openCount (s : State) : Nat := s.slots.count Option.isSome

/-- Whether a slot holds an open record of head `h`. -/
def ownedBy (h : Head) : Option OpenImprint → Bool
  | some o => decide (o.head = h)
  | none => false

/-- The number of open records of head `h` (R19, R39). -/
def headOpenCount (h : Head) (s : State) : Nat := s.slots.count (ownedBy h)

/-- The slot whose open record holds `tag` (R46). -/
def findTag (tag : Nat) (s : State) : Option (SlotNo × OpenImprint) :=
  (numbers 16).findSome? fun k =>
    match s.slots.get k with
    | some o => if o.tag = tag then some (k, o) else none
    | none => none

/-- A head's ring after a closure: an older entry of the same tag is removed, the new one is placed at the newest end, and
the ring keeps four (R16). -/
def pushRing (tag : Nat) (kind : ClosureKind) (ring : List (Nat × ClosureKind)) : List (Nat × ClosureKind) :=
  ((tag, kind) :: ring.filter fun e => decide (e.1 ≠ tag)).take ringCapacity

/-- The piece counter and wrap count after `n` more pieces (R15). -/
def addPieces (n : Nat) (h : HeadRecord) : HeadRecord :=
  if maxCount < h.pieceCounter + n then
    { h with pieceCounter := h.pieceCounter + n - (maxCount + 1), wrapCount := min (h.wrapCount + 1) 255 }
  else { h with pieceCounter := h.pieceCounter + n }

/-- Whether `n` more pieces wrap the counter (R15, R20). -/
def wraps (n : Nat) (h : HeadRecord) : Bool := decide (maxCount < h.pieceCounter + n)

/-! ### The low-credit evaluation (R6) -/

/-- The low-credit evaluation after a request; none is made while the service state is BLANK (R6). -/
def evaluateLowCredit (s : State) : State :=
  if s.service.state = .blank then s
  else if s.pool.descending < s.pool.threshold then
    if s.pool.lowCreditArmed then
      raiseSource srcLowCredit (.lowCredit s.pool.descending s.pool.threshold)
        (modPool (fun q => { q with lowCreditArmed := false }) s)
    else s
  else modPool (fun q => { q with lowCreditArmed := true }) s

end Sys2Proof.Machine
end

