-- ==== Sys2Proof/Machine/Operands.lean ====
section
/-! DEFINITION. The operand forms: request codes and roles (R175), the frame layouts that the manual gives (R172, R176,
R177), and the format checks of the requests' fields. -/

namespace Sys2Proof.Machine

open Sys2Proof.Config

/-! ### Request codes, roles and reply codes (R175) -/

/-- The header of a request command; absent for the commands that are no request. -/
def requestHeader : Instr → Option Req
  | .poolRead q | .headRead q _ | .setLimits q _ _ _ | .setHead q _ _ _ _ | .serviceRead q | .commission q _ _ _ | .unlock q
  | .reserve q _ | .commit q _ | .cancel q _ | .listOpen q _ | .compare q _ _ _ _ | .rateRead q _ | .setRate q _ _ _
  | .withdrawRate q _ _ | .refill q _ _ _ | .returnCredit q _ | .decommission q | .refillLogRead q _ _ | .stockDefine q _ _
  | .stockRetire q _ | .stockReceive q _ _ | .stockIssue q _ _ | .stockSpoil q _ _ | .stockCount q _ _
  | .stockClearMismatch q _ | .stockRead q _ | .journalRead q _ _ | .journalAck q _ | .dayClose q _ | .dayLogRead q _
  | .watchSet q _ _ _ | .watchRelease q _ | .watchRead q _ | .takeNotice q | .noticeDone q | .noticeHold q _
  | .noticeLevel q _ _ | .noticeNesting q _ | .faultRead q | .clearFault q | .faultEnable q _ _ _ _ => some q
  | .status _ _ | .send _ _ | .read _ _ | .watchChannelZero _ _ | .holdCountEnd _ | .timeBaseSecond | .holdFallsDue _
  | .holdExpiry _ | .timeBaseTimeout | .tamperInputActive | .tamperInputInactive | .supplyLowInput
  | .supplyAdequateInput | .resetAsserted | .restart _ _ | .coldStart _ _ => none

/-- The request code of a command (R175), or 0, which is no request's code, for the commands that are no request. -/
def requestCode : Instr → Nat
  | .poolRead _ => 1
  | .headRead _ _ => 2
  | .setLimits _ _ _ _ => 3
  | .setHead _ _ _ _ _ => 4
  | .serviceRead _ => 5
  | .commission _ _ _ _ => 6
  | .unlock _ => 7
  | .reserve _ _ => 16
  | .commit _ _ => 17
  | .cancel _ _ => 18
  | .listOpen _ _ => 19
  | .compare _ _ _ _ _ => 20
  | .rateRead _ _ => 32
  | .setRate _ _ _ _ => 33
  | .withdrawRate _ _ _ => 34
  | .refill _ _ _ _ => 48
  | .returnCredit _ _ => 49
  | .decommission _ => 50
  | .refillLogRead _ _ _ => 51
  | .stockDefine _ _ _ => 64
  | .stockRetire _ _ => 65
  | .stockReceive _ _ _ => 66
  | .stockIssue _ _ _ => 67
  | .stockSpoil _ _ _ => 68
  | .stockCount _ _ _ => 69
  | .stockClearMismatch _ _ => 70
  | .stockRead _ _ => 71
  | .journalRead _ _ _ => 80
  | .journalAck _ _ => 81
  | .dayClose _ _ => 82
  | .dayLogRead _ _ => 83
  | .watchSet _ _ _ _ => 96
  | .watchRelease _ _ => 97
  | .watchRead _ _ => 98
  | .takeNotice _ => 112
  | .noticeDone _ => 113
  | .noticeHold _ _ => 114
  | .noticeLevel _ _ _ => 115
  | .noticeNesting _ _ => 116
  | .faultRead _ => 117
  | .clearFault _ => 118
  | .faultEnable _ _ _ _ _ => 119
  | .status _ _ | .send _ _ | .read _ _ | .watchChannelZero _ _ | .holdCountEnd _ | .timeBaseSecond | .holdFallsDue _
  | .holdExpiry _ | .timeBaseTimeout | .tamperInputActive | .tamperInputInactive | .supplyLowInput
  | .supplyAdequateInput | .resetAsserted | .restart _ _ | .coldStart _ _ => 0

/-- The codes that every port may send (R175). -/
def codesOfAll : List Nat := [1, 2, 5, 19, 20, 32, 71, 98, 112, 113, 114, 115, 116, 117, 118, 119]
/-- The codes of the head ports alone (R175). -/
def codesOfHeads : List Nat := [16, 17, 18]
/-- The codes of the teller port alone (R175). -/
def codesOfTeller : List Nat := [4, 64, 65, 66, 67, 68, 69, 82]
/-- The codes of the funding port alone (R175). -/
def codesOfFunding : List Nat := [3, 6, 7, 33, 34, 48, 49, 50, 70, 80, 81]
/-- The codes of the teller and the funding port (R175). -/
def codesOfBoth : List Nat := [51, 83, 96, 97]

/-- Whether port `p`'s role may send request code `code` (R175). -/
def roleAllows (p : Port) (code : Nat) : Bool :=
  codesOfAll.contains code ||
    (decide (p.val < 6) && codesOfHeads.contains code) ||
    (decide (p = tellerPort) && (codesOfTeller.contains code || codesOfBoth.contains code)) ||
    (decide (p = fundingPort) && (codesOfFunding.contains code || codesOfBoth.contains code))

/-- The number of a reply code (R175). -/
def replyNumber : ReplyCode → Nat
  | .ok => 0
  | .none => 1
  | .duplicate => 2
  | .format => 16
  | .role => 17
  | .state => 18
  | .disabled => 19
  | .inhibited => 20
  | .unsetRate => 21
  | .belowMin => 22
  | .headLimit => 23
  | .tableFull => 24
  | .journalFull => 25
  | .funds => 26
  | .ascLimit => 27
  | .dayCap => 28
  | .exceeds => 29
  | .notOwner => 30
  | .tooLate => 31
  | .noSuchTag => 32
  | .sequence => 33
  | .licence => 34
  | .ceiling => 35
  | .floor => 36
  | .openImprints => 37
  | .entry => 38
  | .notEmpty => 39
  | .short => 40
  | .stockLimit => 41
  | .count => 42
  | .wrongDay => 43
  | .lastDay => 44
  | .notInService => 45
  | .condition => 46

/-! ### Frames (R172, R176) -/

/-- Byte `i` of a frame, or 0 past its end. -/
def byteAt (f : List Byte) (i : Nat) : Nat := (f.getD i 0).toNat

/-- The two-byte number at byte `i`, most significant byte first (R172). -/
def wordAt (f : List Byte) (i : Nat) : Nat := 256 * byteAt f i + byteAt f (i + 1)

/-- The number `v` in `n` bytes, most significant byte first (R172). -/
def bigEndian : Nat → Nat → List Byte
  | 0, _ => []
  | n + 1, v => BitVec.ofNat 8 (v / 256 ^ n) :: bigEndian n v

/-- The body of a RESERVE frame (R176): lane B is carried when the length is 3 groups. -/
def parseReserve (f : List Byte) : ReserveBody :=
  { groups := byteAt f 0
    laneCount := byteAt f 3
    classA := byteAt f 4
    piecesA := wordAt f 5
    classB := if byteAt f 0 = 3 then byteAt f 7 else 0
    piecesB := if byteAt f 0 = 3 then wordAt f 8 else 0 }

/-- The body of a COMMIT frame (R176): lane B's count is carried when the length is 3 groups. -/
def parseCommit (f : List Byte) : CommitBody :=
  { groups := byteAt f 0
    tag := wordAt f 3
    piecesA := wordAt f 5
    piecesB := if byteAt f 0 = 3 then wordAt f 7 else 0 }

/-- The frame of a RESERVE of 2 or 3 groups with its padding (R172, R176). -/
def reserveFrame (number : Byte) (b : ReserveBody) : List Byte :=
  [BitVec.ofNat 8 b.groups, 16, number] ++ bigEndian 1 b.laneCount ++ bigEndian 1 b.classA ++ bigEndian 2 b.piecesA ++
    (if b.groups = 3 then bigEndian 1 b.classB ++ bigEndian 2 b.piecesB ++ [0, 0] else [0])

/-- The frame of a COMMIT of 2 or 3 groups with its padding (R172, R176). -/
def commitFrame (number : Byte) (b : CommitBody) : List Byte :=
  [BitVec.ofNat 8 b.groups, 17, number] ++ bigEndian 2 b.tag ++ bigEndian 2 b.piecesA ++
    (if b.groups = 3 then bigEndian 2 b.piecesB ++ [0, 0, 0] else [0])

/-- Whether the shape of the command's body agrees with a frame of `groups` groups; the layouts of RESERVE and COMMIT are
compared field by field (R176), and of the others the manual gives the emptiness of the body alone (log 2). -/
def bodyAgrees (f : List Byte) (c : Instr) (q : Req) : Bool :=
  match c with
  | .reserve _ b => decide (parseReserve f = b)
  | .commit _ b => decide (parseCommit f = b)
  | .poolRead _ | .serviceRead _ | .unlock _ | .decommission _ | .takeNotice _ | .noticeDone _ | .faultRead _
  | .clearFault _ => q.fits == decide (byteAt f 0 = 1)
  | .listOpen _ h => (q.fits && h.isNone) == decide (byteAt f 0 = 1)
  | _ => decide (byteAt f 0 = 1 → q.fits = false)

/-- Whether the frame in a slot is the one that request command `c` stands for: its code, its request number and its body
agree (R176). -/
def frameCarries (f : List Byte) (c : Instr) (q : Req) : Bool :=
  decide (byteAt f 1 = requestCode c) && decide (f.getD 2 0 = q.number) && bodyAgrees f c q

/-- Whether what waits in a slot is request command `c`. -/
def slotCarries (w : SlotContent) (c : Instr) (q : Req) : Bool :=
  match w with
  | .frame f => frameCarries f c q
  | .command c' => decide (c' = c)

/-- The length check of a frame that was clocked in (R172): the length byte is not 0, the frame has as many bytes as it
announces, and it fits the slot. -/
def lengthFits (f : List Byte) : Bool :=
  decide (byteAt f 0 ≠ 0) && decide (f.length = 4 * byteAt f 0) && decide (f.length ≤ slotBytes)

/-- The length in groups that a request command's frame announces, where the command carries it (R176). -/
def requestGroups : Instr → Option Nat
  | .reserve _ b => some b.groups
  | .commit _ b => some b.groups
  | _ => none

/-- The length check of R172 for the frame that a request command brings: its length is not 0, and it fits the slot. A
command without a length brings a frame that passes (log 3). -/
def commandLengthFits (c : Instr) : Bool :=
  match requestGroups c with
  | some g => decide (g ≠ 0) && decide (4 * g ≤ slotBytes)
  | none => true

/-! ### Reply frames (R176, R177) -/

/-- The number of a service state in an alarm's detail (R177). -/
def stateNumber : ServiceState → Nat
  | .blank => 0
  | .inService => 1
  | .halted => 2
  | .lockdown => 3
  | .withdrawn => 4

/-- The bytes of a notice's detail (R177). The byte of an absent request number is a free value (log 31). -/
def detailBytes : Detail → List Byte
  | .watchZero c n (.day d) => bigEndian 1 c.val ++ bigEndian 1 0 ++ bigEndian 3 n ++ bigEndian 4 d
  | .watchZero c n (.pieces h t) => bigEndian 1 c.val ++ bigEndian 1 1 ++ bigEndian 3 n ++ bigEndian 1 h.val ++ bigEndian 2 t
  | .watchZero c n (.refill v) => bigEndian 1 c.val ++ bigEndian 1 2 ++ bigEndian 3 n ++ bigEndian 4 v
  | .imprintExpired t i => bigEndian 2 t ++ bigEndian 3 i
  | .headInhibited c => bigEndian 1 c.val
  | .lowCredit d t => bigEndian 5 d ++ bigEndian 5 t
  | .refillAccepted v a d => bigEndian 4 v ++ bigEndian 4 a ++ bigEndian 5 d
  | .tariffApplied n d => bigEndian 1 n ++ bigEndian 4 d
  | .stockMismatch e k h d => bigEndian 1 e.val ++ bigEndian 4 k ++ bigEndian 4 h ++ bigEndian 4 d
  | .portFault c none => bigEndian 1 (replyNumber c) ++ [0, absentNumber]
  | .portFault c (some n) => bigEndian 1 (replyNumber c) ++ [1, n]
  | .alarm d s => bigEndian 4 d ++ bigEndian 1 (stateNumber s)
  | .nearFull f u c => bigEndian 2 f ++ bigEndian 2 u ++ bigEndian 1 c

/-- A list of bytes followed by bytes of 0 up to length `n`. -/
def padTo (n : Nat) (bs : List Byte) : List Byte := bs ++ List.replicate (n - bs.length) 0

/-- Bytes 4 to 27 of the reply that delivers a notice (R177). -/
def noticeBytes (r : NoticeRecord) : List Byte :=
  padTo 24 (bigEndian 1 r.source.val ++ bigEndian 1 r.level ++ bigEndian 1 r.pushed ++ bigEndian 1 r.again ++
    bigEndian 1 r.stillPending ++ bigEndian 1 r.newTop ++ detailBytes r.detail)

/-- The length of a reply frame in groups (R176, R177); a free value where the manual gives no layout (log 11). -/
def replyLength (r : Reply) : Nat :=
  match r.body with
  | .none => 1
  | .notice _ => 7
  | .noNotice _ _ => 2
  | b => 2 + (replyGroups b).val

/-- The flags byte of a reply (R176): bit 0 Z, bit 1 L, bit 2 W, bit 3 C. -/
def flagsByte (f : ResultFlags) : Byte :=
  BitVec.ofNat 8 (f.z.toNat + 2 * f.l.toNat + 4 * f.w.toNat + 8 * f.c.toNat)

/-- The bytes of a reply frame from byte 4 on (R176): none for a reply without a body, the layouts of R177 for the replies
to TAKE_NOTICE, and free bytes where the manual gives no layout (log 11). -/
def replyBytes (r : Reply) : List Byte :=
  match r.body with
  | .none => []
  | .notice n => noticeBytes n
  | .noNotice p t => padTo 4 (bigEndian 1 p ++ bigEndian 1 t)
  | b => (List.range (4 * (replyLength r - 1))).map (replyBodyByte b)

/-- A reply frame (R176): the header of length, reply code, request number and flags, and then the body. -/
def replyFrame (r : Reply) : List Byte :=
  bigEndian 1 (replyLength r) ++ bigEndian 1 (replyNumber r.code) ++ [r.number, flagsByte r.flags] ++ replyBytes r

/-- What a READ of a reply clocks out (R173): the frame from its first byte, as far as select allows, and bytes of 0 beyond
its end. -/
def readBytes (r : Reply) : ReadExtent → List Byte
  | .wholeFrame => replyFrame r
  | .bytes n => padTo n ((replyFrame r).take n)

/-- Whether a READ clocked the whole frame out before select was released (R173). -/
def readsWhole (r : Reply) : ReadExtent → Bool
  | .wholeFrame => true
  | .bytes n => decide (4 * replyLength r ≤ n)

/-! ### Format checks of the requests' fields -/

/-- Whether an item to be left or replaced breaks its format check: an unrecognised choice, or a value that `bad` refuses. -/
def choiceBad {α : Type} (bad : α → Bool) : Choice α → Bool
  | .leave => false
  | .value a => bad a
  | .unrecognised => true

/-- The value an item leaves: the one it carries, or the one that stood. -/
def choiceOr {α : Type} (old : α) : Choice α → α
  | .value a => a
  | _ => old

/-- The format check of the daily cap item (R18). -/
def capBad : CapChoice → Bool
  | .value c => decide (c = 0) || decide (maxPool < c)
  | .unrecognised => true
  | _ => false

/-- The daily cap an item leaves (R18). -/
def capOr (old : Option Nat) : CapChoice → Option Nat
  | .absent => none
  | .value c => some c
  | _ => old

/-- A hold time clamped to 5 to 600 seconds (R18). -/
def clampHold (t : Nat) : Nat := max 5 (min t 600)

/-- Whether a coded field is none of its values. -/
def isUnknown {α : Type} : Coded α → Bool
  | .known _ => false
  | .unknown => true

/-- The format check of a rate class number and a piece count (R34, R42). -/
def lanePartBad (cls pieces : Nat) : Bool := decide (63 < cls) || decide (pieces = 0) || decide (maxPieces < pieces)

/-- The format checks of a RESERVE body (R42). -/
def reserveBad (b : ReserveBody) : Bool :=
  decide (b.groups ≠ 2 ∧ b.groups ≠ 3) || decide (b.laneCount ≠ 1 ∧ b.laneCount ≠ 2) ||
    decide (b.laneCount = 1 ∧ b.groups = 3) || decide (b.laneCount = 2 ∧ b.groups ≠ 3) ||
    lanePartBad b.classA b.piecesA || (decide (b.groups = 3) && lanePartBad b.classB b.piecesB)

/-- The format checks of a COMMIT body that do not need the record (R45, line 2). -/
def commitBad (b : CommitBody) : Bool :=
  decide (b.tag = 0) || decide (maxPieces < b.piecesA) || (decide (b.groups = 3) && decide (maxPieces < b.piecesB)) ||
    decide (b.groups ≠ 2 ∧ b.groups ≠ 3)

/-- The line of R64 that the fields of a SET_RATE for class `cls` break first, if any. -/
def rateLineBroken (cls : Nat) (f : RateFields) : Option Nat :=
  if 63 < cls then some 2
  else if f.unitRate = 0 ∨ 999999 < f.unitRate then some 3
  else if 99999 < f.supplement then some 4
  else if isUnknown f.rounding then some 5
  else if f.minimum = 0 ∨ maxPieces < f.minimum then some 6
  else match f.fallback with
    | some g => if 63 < g ∨ g = cls then some 7 else none
    | none => none

/-- The rate entry that the fields of an accepted SET_RATE make (R65, R66). -/
def rateEntryOf (f : RateFields) : RateEntry where
  unitRate := f.unitRate
  supplement := f.supplement
  rounding := match f.rounding with
    | .known m => m
    | .unknown => .halfUp
  minimum := f.minimum
  fallback := f.fallback.bind (index 64)

/-- The set of the heads a mask names. -/
def maskSet (m : List Nat) : HeadSet :=
  ⟨(List.range 6).map fun h => m.contains h, rfl⟩

/-- The prescale a number names (R128). -/
def prescaleOf (n : Nat) : Option Prescale :=
  if n = 1 then some .one else if n = 100 then some .hundred else none

/-- The control fields of an accepted WATCH_SET, as the channel holds them (R128). -/
structure Controls where
  source : WatchSource
  headMask : HeadSet
  prescale : Prescale
  start : WatchStart
  action : WatchAction
  inhibitMask : HeadSet
deriving DecidableEq, Repr

/-- The control fields of a WATCH_SET, absent when they fail line 4 of R130. -/
def controlsOf (f : ControlFields) : Option Controls :=
  match f.source, f.start, f.action, prescaleOf f.prescale with
  | .known src, .known st, .known act, some pre =>
    if (f.headMask.any fun h => decide (5 < h)) || (f.inhibitMask.any fun h => decide (5 < h)) ||
        (decide (pre = .hundred) && decide (src ≠ .pieces)) then none
    else some ⟨src, maskSet f.headMask, pre, st, act, maskSet f.inhibitMask⟩
  | _, _, _, _ => none

/-- The reload value of a LOAD, where 0 stands for 65,536 (R130). -/
def reloadOf (n : Nat) : Nat := if n = 0 then 65536 else n

/-- A read's count: above 8 it is taken as 8 (R110, R116). -/
def windowCount (n : Nat) : Nat := min n 8

/-- The record enable a choice leaves (R156). -/
def enableOr (old : Bool) : EnableChoice → Bool
  | .enable => true
  | .disable => false
  | _ => old

/-- Whether a FAULT_ENABLE choice is not recognised (R156). -/
def enableBad (c : EnableChoice) : Bool := decide (c = .unrecognised)

end Sys2Proof.Machine
end

