-- ==== Sys2Proof/Machine/Flags.lean ====
section
/-! DEFINITION. The result flags of a reply (R20). -/

namespace Sys2Proof.Machine

/-- The request codes whose replies are money replies (R20): POOL_READ, HEAD_READ, SET_LIMITS, RESERVE, COMMIT, CANCEL,
REFILL, RETURN_CREDIT, DECOMMISSION and STOCK_RECEIVE. -/
def moneyCodes : List Nat := [1, 2, 3, 16, 17, 18, 48, 49, 50, 66]

/-- The four flags clear (R20). -/
def clearFlags : ResultFlags := ⟨false, false, false, false⟩

/-- The request's head: for HEAD_READ the named head, otherwise the head of the sending head port (R20). A HEAD_READ that
names no head counts as its port's (DEDUCED, log 15). -/
def flagHead (c : Instr) (p : Port) : Option Head :=
  match c with
  | .headRead _ n => match index 6 n with
    | some h => some h
    | none => portHead p
  | _ => portHead p

/-- The C flag: the residue of the request's head is not 0 (R20). -/
def residueFlag (h : Option Head) (s : State) : Bool :=
  match h with
  | some h => decide ((s.heads.get h).residue ≠ 0)
  | none => false

/-- The result flags of the reply to request `c` of port `p` in the state the engine left; `wrapped` says that the request
wrapped a piece counter (R20). -/
def resultFlags (c : Instr) (p : Port) (wrapped : Bool) (s : State) : ResultFlags :=
  if moneyCodes.contains (requestCode c) then
    { z := decide (s.pool.descending = 0)
      l := decide (s.pool.descending < s.pool.threshold)
      w := wrapped
      c := residueFlag (flagHead c p) s }
  else clearFlags

end Sys2Proof.Machine
end

