-- ==== Sys2Proof/Machine/Link.lean ====
section
/-! DEFINITION. The port links (R169 to R173), the request arbiter (R174), the course of a request from its slot to its
reply, and the transactions STATUS, SEND and READ. -/

namespace Sys2Proof.Machine

open Sys2Proof.Config

/-! ### Link status (R170) -/

/-- The link status byte of port `p` (R170): bit 0 REPLY_READY, bit 1 BUSY, bit 2 ATTENTION, bit 3 OVERRUN. -/
def statusByte (s : State) (p : Port) : Byte :=
  let l := s.links.get p
  BitVec.ofNat 8 (l.reply.isSome.toNat + 2 * l.slot.isSome.toNat + 4 * (attention s.notices p).toNat + 8 * l.overrun.toNat)

/-- The status byte clocks out as the link stands when select is asserted, followed by `data` (R169). -/
def clockOut (p : Port) (data : List Byte) (s : State) : State :=
  modLink p (fun l => { l with out := some ⟨statusByte s p, data⟩ }) s

/-- While the reset input is asserted select is ignored and data out is released (R169). -/
def releaseOut (p : Port) (s : State) : State := modLink p (fun l => { l with out := none }) s

/-! ### Taking a frame (R171, R172) -/

/-- A frame that finds BUSY set is discarded and OVERRUN is set (R171). -/
def discardFrame (p : Port) (s : State) : State := modLink p (fun l => { l with overrun := true }) s

/-- The link takes a frame: OVERRUN is cleared and an unread reply is discarded (R171). -/
def takeFrame (p : Port) (s : State) : State := modLink p (fun l => { l with overrun := false, reply := none }) s

/-- The link answers a frame itself, with clear flags and no body, and the refusal is recorded (R172). -/
def linkAnswer (p : Port) (code : ReplyCode) (number : Option Byte) (s : State) : State :=
  recordRefusal p code number
    (modLink p (fun l => { l with reply := some ⟨code, number.getD 0, clearFlags, .none⟩ }) s)

/-- A request waits in its slot (R171). -/
def fillSlot (p : Port) (w : SlotContent) (s : State) : State := modLink p (fun l => { l with slot := some w }) s

/-- Select is released at the end of a SEND transaction with frame `f` (R171, R172). -/
def receiveFrame (p : Port) (f : List Byte) (s : State) : State :=
  if (s.links.get p).slot.isSome then discardFrame p s
  else
    let s1 := takeFrame p s
    if !lengthFits f then linkAnswer p .format f[2]? s1
    else if !roleAllows p (byteAt f 1) then linkAnswer p .role f[2]? s1
    else fillSlot p (.frame f) s1

/-! ### The arbiter (R174) -/

/-- What the engine takes next. -/
inductive Turn where
  | expiry (k : SlotNo)
  | request (p : Port)
deriving DecidableEq, Repr

/-- Whether a slot holds a record whose expiry has been handed (R52). -/
def isHanded : Option OpenImprint → Bool
  | some o => o.handed
  | none => false

/-- The first port of a list whose slot holds a waiting request (R174). -/
def firstWaiting (s : State) (ps : List Port) : Option Port := ps.find? fun p => (s.links.get p).slot.isSome

/-- The first waiting request above the last-served port. -/
def waitingAbove (s : State) : Option Port := firstWaiting s ((numbers 8).filter fun p => s.lastServed < p)

/-- The first waiting request from port 0 up to the last-served port. -/
def waitingBelow (s : State) : Option Port := firstWaiting s ((numbers 8).filter fun p => p ≤ s.lastServed)

/-- What a search from the last-served port plus one finds (R174): a waiting request up to port 7, then a handed expiry in
slot order, then a waiting request from port 0 up to the last-served port. -/
def freshTurn (s : State) : Option Turn :=
  match waitingAbove s with
  | some p => some (.request p)
  | none =>
    match s.slots.first isHanded with
    | some k => some (.expiry k)
    | none => (waitingBelow s).map .request

/-- What the engine takes next (R174). A search that has come to port 0 takes the handed expiries one by one, whatever
arrives meanwhile, and then goes on from port 0; otherwise a search begins. -/
def nextTurn (s : State) : Option Turn :=
  match s.search with
  | .fresh => freshTurn s
  | .atExpiries =>
    match s.slots.first isHanded with
    | some k => some (.expiry k)
    | none => freshTurn s
  | .pastExpiries =>
    match waitingBelow s with
    | some p => some (.request p)
    | none => freshTurn s

/-- Where the search stands when an expiry has been taken (R174): at the expiries while one is left; then it goes on from
port 0 when a request waits there or above, up to the last-served port; otherwise it ends without a grant. -/
def searchAfterExpiry (s : State) : SearchPlace :=
  if (s.slots.first isHanded).isSome then .atExpiries
  else if (waitingBelow s).isSome then .pastExpiries
  else .fresh

/-! ### A request from its slot to its reply -/

/-- What the engine makes of a request: the state it leaves, the reply's code and body, and whether it wrapped a piece
counter. -/
structure Answer where
  state : State
  code : ReplyCode
  body : ReplyBody
  wrapped : Bool
deriving DecidableEq, Repr

/-- An accepted request. -/
def accept (s : State) (body : ReplyBody) : Answer := ⟨s, .ok, body, false⟩
/-- A refused request, which changes nothing. -/
def refuse (s : State) (code : ReplyCode) (body : ReplyBody) : Answer := ⟨s, code, body, false⟩

/-- The grant to port `p`: it becomes the last-served port, the search ends, the slot is emptied, and a hold count above 0
is lowered by one (R151, R174). -/
def grant (p : Port) (s : State) : State :=
  modNoticePort p (fun n => { n with holdCount := n.holdCount - 1 })
    { modLink p (fun l => { l with slot := none }) s with lastServed := p, search := .fresh }

/-- The engine has finished with a request: a refusal of a kept class is recorded (R155), the reply is placed in the reply
slot (R173), and the low-credit evaluation follows (R6). -/
def conclude (c : Instr) (q : Req) (a : Answer) : State :=
  evaluateLowCredit
    (modLink q.port (fun l => { l with reply := some ⟨a.code, q.number, resultFlags c q.port a.wrapped a.state, a.body⟩ })
      (recordRefusal q.port a.code (some q.number) a.state))

/-- The engine executes a granted request. -/
def execute (c : Instr) (q : Req) (engine : State → Answer) (s : State) : State :=
  conclude c q (engine (grant q.port s))

/-- A request that waits in its slot is granted when it is at its turn; otherwise it goes on waiting (R174, log 4). -/
def atTurn (c : Instr) (q : Req) (engine : State → Answer) (s : State) : State :=
  if nextTurn s = some (.request q.port) then execute c q engine s else s

/-- The course of a request command (log 3). When its port's slot is empty its frame arrives first: the link takes it, and
answers FORMAT when its length fails the check and ROLE when the port may not send it (R171, R172). When the slot holds
this request, this is its turn or it waits on. When the slot holds another request, the frame is discarded (R171). While
reset is asserted nothing is taken. A command that brings its frame stands for a SEND transaction, whose status byte R169
clocks out: that the model records no status byte for it, and leaves the port's `out` as it was, is the model's choice
(DESIGN CHOICE, log 12). -/
def serve (c : Instr) (q : Req) (engine : State → Answer) (s : State) : State :=
  if s.resetHeld then s
  else
    match (s.links.get q.port).slot with
    | none =>
      let s1 := takeFrame q.port s
      if !commandLengthFits c then linkAnswer q.port .format (some q.number) s1
      else if !roleAllows q.port (requestCode c) then linkAnswer q.port .role (some q.number) s1
      else atTurn c q engine (fillSlot q.port (.command c) s1)
    | some w => if slotCarries w c q then atTurn c q engine s else discardFrame q.port s

/-! ### Transactions -/

/-- STATUS: the status byte clocks out and the transaction ends (R169). -/
def execStatus (p : Port) (_selector : Byte) (s : State) : Host.Outcome State Fault Refusal :=
  .next (if s.resetHeld then releaseOut p s else clockOut p [] s)

/-- SEND: the status byte clocks out, and on release of select the link deals with the frame; with no frame byte it is a
STATUS (R169, R171). -/
def execSend (p : Port) (frame : List Byte) (s : State) : Host.Outcome State Fault Refusal :=
  .next (if s.resetHeld then releaseOut p s
    else if frame.isEmpty then clockOut p [] s
    else receiveFrame p frame (clockOut p [] s))

/-- READ: the reply frame clocks out, and the reply slot is emptied when the whole frame has been read (R173). -/
def execRead (p : Port) (extent : ReadExtent) (s : State) : Host.Outcome State Fault Refusal :=
  .next (if s.resetHeld then releaseOut p s
    else
      match (s.links.get p).reply with
      | none => clockOut p [0] s
      | some r =>
        let s1 := clockOut p (readBytes r extent) s
        if readsWhole r extent then modLink p (fun l => { l with reply := none }) s1 else s1)

end Sys2Proof.Machine
end

