-- ==== Sys2Proof/Machine/Watch.lean ====
section
/-! DEFINITION. The counting of the watch channels (R135 to R140), as the movements of the engine cause it. -/

namespace Sys2Proof.Machine

open Sys2Proof.Config

/-- The heads of a set, in ascending order. -/
def headsOf (m : HeadSet) : List Head := m.indices id

/-- Whether a head's inhibit holders set is empty (R17). -/
def noHolders (h : HeadRecord) : Bool := h.inhibitHolders.items.all fun b => !b

/-- Channel `c` is added to the inhibit holders of head `h`; HEAD_INHIBITED is raised when the set was empty (R17, R140). -/
def inhibitHead (c : ChannelNo) (s : State) (h : Head) : State :=
  let s' := modHead h (fun r => { r with inhibitHolders := r.inhibitHolders.set c true }) s
  if noHolders (s.heads.get h) then raiseSource (srcHeadInhibited h) (.headInhibited c) s' else s'

/-- Whether an action raises WATCH_ZERO (R139). -/
def actionNotifies : WatchAction → Bool
  | .notice | .noticeInhibit => true
  | .inhibit => false

/-- Whether an action inhibits (R140). -/
def actionInhibits : WatchAction → Bool
  | .inhibit | .noticeInhibit => true
  | .notice => false

/-- A channel that has reached zero, reloaded and with its held settings in force (R138, steps 1 and 2). -/
def reloaded (ch : Channel) : Channel :=
  { ch with
    reload := ch.pendingReload.getD ch.reload
    pendingReload := none
    count := ch.pendingReload.getD ch.reload
    source := ch.heldSource.getD ch.source
    heldSource := none
    prescale := ch.heldPrescale.getD ch.prescale
    heldPrescale := none
    prescaleCount := 0 }

/-- The actions of channel `c` at a zero that `ev` brought (R138, step 3; R139, R140). WATCH_ZERO reports the source by the
event that was counted (DEDUCED, log 14). -/
def runActions (c : ChannelNo) (ev : SourceEvent) (s : State) : State :=
  let ch := s.channels.get c
  let s1 := if actionNotifies ch.action then raiseSource (srcWatchZero c) (.watchZero c ch.count ev) s else s
  if actionInhibits ch.action then (headsOf ch.inhibitMask).foldl (inhibitHead c) s1 else s1

/-- Channel `c` has reached zero (R138). -/
def channelZero (c : ChannelNo) (ev : SourceEvent) (s : State) : State :=
  runActions c ev (setChannel c (reloaded (s.channels.get c)) s)

/-- The source whose event `ev` is (R135). -/
def eventSource : SourceEvent → WatchSource
  | .day _ => .days
  | .pieces _ _ => .pieces
  | .refill _ => .refills

/-- Whether an event is one of the channel's source: for PIECES, of a head in the head mask (R135). -/
def isEventOf (ch : Channel) (ev : SourceEvent) : Bool :=
  decide (ch.source = eventSource ev) &&
    match ev with
    | .pieces h _ => ch.headMask.get h
    | _ => true

/-- Whether the next counted event brings a RUNNING channel to zero (R137). -/
def atLastEvent (ch : Channel) : Bool :=
  decide (ch.count ≤ 1) &&
    match ch.prescale with
    | .one => true
    | .hundred => decide (99 ≤ ch.prescaleCount)

/-- A RUNNING channel after an event that does not bring it to zero (R137). -/
def ticked (ch : Channel) : Channel :=
  match ch.prescale with
  | .one => { ch with count := ch.count - 1 }
  | .hundred =>
    if 99 ≤ ch.prescaleCount then { ch with prescaleCount := 0, count := ch.count - 1 }
    else { ch with prescaleCount := ch.prescaleCount + 1 }

/-- Channel `c` receives one event (R129, R136, R137). -/
def receiveEvent (c : ChannelNo) (ev : SourceEvent) (s : State) : State :=
  let ch := s.channels.get c
  match ch.state with
  | .waiting => setChannel c { ch with state := .running } s
  | .running => if atLastEvent ch then channelZero c ev s else setChannel c (ticked ch) s
  | _ => s

/-- Channel `c` receives `n` events of one movement, one after another; events that are not of its source are not
received (R135, R138). -/
def receiveEvents (c : ChannelNo) (ev : SourceEvent) : Nat → State → State
  | 0, s => s
  | n + 1, s =>
    if isEventOf (s.channels.get c) ev then receiveEvents c ev n (receiveEvent c ev s) else s

/-- The `n` events of one settlement, close or refill are counted on all channels (R135); the channels take them in
order of number (DESIGN CHOICE, log 13). -/
def countEvents (ev : SourceEvent) (n : Nat) (s : State) : State :=
  (numbers 8).foldl (fun s c => receiveEvents c ev n s) s

/-- Whether one day brings the channel to zero (R127, R137). -/
def daysZero (ch : Channel) : Bool :=
  decide (ch.state = .running) && decide (ch.source = .days) && atLastEvent ch

/-- The port that programs channel `c` (R128). -/
def channelPort (c : ChannelNo) : Port := if c.val < 4 then fundingPort else tellerPort

/-- The heads whose inhibit holders contain channel `c` (R142). -/
def heldHeads (c : ChannelNo) (s : State) : List Head := s.heads.indices fun h => h.inhibitHolders.get c

end Sys2Proof.Machine
end

