-- ==== Sys2Proof/Machine/Imprints.lean ====
section
/-! DEFINITION. RESERVE, COMMIT, CANCEL, LIST_OPEN and COMPARE, and the settlements of open records (chapters 2 and 3). -/

namespace Sys2Proof.Machine

open Sys2Proof.Config

/-! ### Settlements (R2, R14, R15, R16, R48, R53, R54) -/

/-- The head record after a settlement of reserve `total` at charge `charge` (R14, R15, R16). -/
def settledHead (tag : Nat) (kind : ClosureKind) (total charge pieces residue : Nat) (h : HeadRecord) : HeadRecord :=
  let h' := addPieces pieces h
  { h' with
    headReserved := h.headReserved - total
    ascending := h.ascending + charge
    usedToday := h.usedToday + charge
    residue := residue
    ring := pushRing tag kind h.ring }

/-- The open record of slot `k` is settled at `charge`, as one movement: the remainder returns to descending, the head is
charged, the entry is written through the claim, the tag enters the ring and the slot becomes FREE (R48, R53). -/
def settle (k : SlotNo) (o : OpenImprint) (kind : ClosureKind) (entry : EntryKind) (charge pieces residue : Nat)
    (s : State) : State :=
  setSlot k none
    (writeClaimed entry (headPort o.head)
      ⟨some o.head, some o.tag, some pieces, charge, some (o.total - charge), some residue⟩
      (modHead o.head (settledHead o.tag kind o.total charge pieces residue)
        (modPool (fun p => { p with
          descending := p.descending + (o.total - charge)
          reservedTotal := p.reservedTotal - o.total }) s)))

/-- The record of slot `k` is settled as a forfeit of its whole reserve, and its reserved pieces are counted on the watch
channels (R33, R53, R54). -/
def forfeit (k : SlotNo) (o : OpenImprint) (kind : ClosureKind) (entry : EntryKind) (s : State) : State :=
  let pieces := reservedPieces o.laneA o.laneB
  countEvents (.pieces o.head o.tag) pieces
    (settle k o kind entry o.total pieces (forfeitResidue o.laneA o.laneB (s.heads.get o.head).residue) s)

/-- The engine takes the expiry of the record of slot `k` (R53). -/
def takeExpiry (k : SlotNo) (o : OpenImprint) (s : State) : State :=
  raiseSource (srcImprintExpired o.head) (.imprintExpired o.tag o.imprintNumber) (forfeit k o .expired .expiryCharge s)

/-- The restart charge of slot `k`, when it is OPEN (R54). -/
def restartCharge (s : State) (k : SlotNo) : State :=
  match s.slots.get k with
  | some o => forfeit k o .restartCharged .restartCharge s
  | none => s

/-! ### RESERVE (R40 to R44) -/

/-- The tag that follows `t`: 65,535 is followed by 1 (R10). -/
def tagAfter (t : Nat) : Nat := if 65535 ≤ t then 1 else t + 1

/-- The tags of the open records (R10). -/
def openTags (s : State) : List Nat := s.slots.items.filterMap fun o => o.map OpenImprint.tag

/-- The first candidate tag from `t` on that no open record holds; one is found within 17 candidates (R10). -/
def chooseTag (used : List Nat) : Nat → Nat → Nat
  | 0, t => t
  | fuel + 1, t => if used.contains t then chooseTag used fuel (tagAfter t) else t

/-- The imprint number that follows `n`: 999,999 is followed by 1 (R16). -/
def imprintAfter (n : Nat) : Nat := if 999999 ≤ n then 1 else n + 1

/-- The class a number of a checked body names. -/
def classOf (n : Nat) : ClassNo := Fin.ofNat 64 n

/-- The lanes of a checked RESERVE body priced by the rate table, lane A first, or the refusal with the lane that failed
(R23, R24). -/
def priceLanes (rates : Tab RateClass 64) (b : ReserveBody) : Except (ReplyCode × LaneName) (Lane × Option Lane) :=
  match priceLane rates (classOf b.classA) b.piecesA with
  | .error c => .error (c, .a)
  | .ok a =>
    if b.groups = 3 then
      match priceLane rates (classOf b.classB) b.piecesB with
      | .error c => .error (c, .b)
      | .ok l => .ok (a, some l)
    else .ok (a, none)

/-- The record that an accepted reserve of head `h` opens (R38, R43). -/
def newRecord (h : Head) (a : Lane) (b : Option Lane) (s : State) : OpenImprint where
  tag := chooseTag (openTags s) 17 s.pool.nextTag
  head := h
  imprintNumber := (s.heads.get h).imprintNumber
  dayReserved := s.pool.day
  laneA := a
  laneB := b
  total := totalReserve a b
  holdRemaining := (s.heads.get h).holdTime
  handed := false

/-- The reserve of record `o` in slot `k`, as one movement (R43). -/
def openRecord (k : SlotNo) (o : OpenImprint) (s : State) : State :=
  takeClaim
    (setSlot k (some o)
      (modHead o.head (fun r => { r with
          headReserved := r.headReserved + o.total
          imprintNumber := imprintAfter r.imprintNumber })
        (modPool (fun p => { p with
          descending := p.descending - o.total
          reservedTotal := p.reservedTotal + o.total
          nextTag := tagAfter o.tag }) s)))

/-- Whether a head's daily cap is present and a reserve of `t` would exceed it (R41, line 11). -/
def capExceeded (r : HeadRecord) (t : Nat) : Bool :=
  match r.dailyCap with
  | some c => decide (c < r.usedToday + r.headReserved + t)
  | none => false

/-- The engine's part of a RESERVE of head `h` (R41 to R44). -/
def reserveFor (h : Head) (b : ReserveBody) (s : State) : Answer :=
  let r := s.heads.get h
  if s.service.state ≠ .inService then refuse s .state .none
  else if !r.enabled then refuse s .disabled .none
  else if !noHolders r then refuse s .inhibited .none
  else if reserveBad b then refuse s .format .none
  else match priceLanes s.rates b with
    | .error e => refuse s e.1 (.lane e.2)
    | .ok lanes =>
      let o := newRecord h lanes.1 lanes.2 s
      if headLimit ≤ headOpenCount h s then refuse s .headLimit .none
      else match s.slots.first Option.isNone with
        | none => refuse s .tableFull .none
        | some k =>
          if journalFree s = 0 then refuse s .journalFull .none
          else if s.pool.descending < o.total then refuse s .funds .none
          else if maxAscending < r.ascending + r.headReserved + o.total then refuse s .ascLimit .none
          else if capExceeded r o.total then refuse s .dayCap .none
          else accept (openRecord k o s)
            (.reserved o.tag o.imprintNumber lanes.1.reserve (lanes.2.map Lane.reserve) o.total o.holdRemaining)

/-- The engine's part of RESERVE: the head is the one the sending port serves (R40). -/
def engineReserve (q : Req) (b : ReserveBody) (s : State) : Answer :=
  match portHead q.port with
  | some h => reserveFor h b s
  | none => refuse s .role .none

/-- RESERVE (R41). -/
def execReserve (q : Req) (b : ReserveBody) (s : State) : Host.Outcome State Fault Refusal :=
  .next (serve (.reserve q b) q (engineReserve q b) s)

/-! ### COMMIT (R45 to R49) and CANCEL (R50) -/

/-- The answer to a COMMIT or CANCEL whose tag no open record holds: from the head's own ring (R46). -/
def answerFromRing (h : Head) (tag : Nat) (s : State) : Answer :=
  match (s.heads.get h).ring.find? fun e => decide (e.1 = tag) with
  | some e => refuse s .tooLate (.closedAs e.2)
  | none => refuse s .noSuchTag .none

/-- The pieces a commit reports for lane B; a record of one lane has none. -/
def commitPiecesB (o : OpenImprint) (b : CommitBody) : Nat := if o.laneB.isSome then b.piecesB else 0

/-- The settlement of an accepted COMMIT (R48, R49). -/
def settleCommit (k : SlotNo) (o : OpenImprint) (b : CommitBody) (s : State) : Answer :=
  let h := s.heads.get o.head
  let w := workImprint o.laneA o.laneB b.piecesA b.piecesB h.residue
  let pieces := b.piecesA + commitPiecesB o b
  { state := countEvents (.pieces o.head o.tag) pieces (settle k o .committed .commit w.charge pieces w.residue s)
    code := .ok
    body := .committed o.tag o.imprintNumber ⟨b.piecesA, w.laneA.effective, w.laneA.charge⟩
      (w.laneB.map fun l => ⟨b.piecesB, l.effective, l.charge⟩) w.charge (o.total - w.charge) w.residue
    wrapped := wraps pieces h }

/-- The engine's part of a COMMIT of head `h` (R45, R47). -/
def commitFor (h : Head) (b : CommitBody) (s : State) : Answer :=
  if s.service.state = .blank then refuse s .state .none
  else if commitBad b then refuse s .format .none
  else match findTag b.tag s with
    | none => answerFromRing h b.tag s
    | some (k, o) =>
      if o.head ≠ h then refuse s .notOwner .none
      else if o.laneB.isSome ≠ decide (b.groups = 3) then refuse s .format .none
      else if o.laneA.pieces < b.piecesA then refuse s .exceeds (.lane .a)
      else if (o.laneB.map Lane.pieces).getD 0 < commitPiecesB o b then refuse s .exceeds (.lane .b)
      else settleCommit k o b s

/-- The engine's part of COMMIT (R45). -/
def engineCommit (q : Req) (b : CommitBody) (s : State) : Answer :=
  match portHead q.port with
  | some h => commitFor h b s
  | none => refuse s .role .none

/-- COMMIT (R45). -/
def execCommit (q : Req) (b : CommitBody) (s : State) : Host.Outcome State Fault Refusal :=
  .next (serve (.commit q b) q (engineCommit q b) s)

/-- The open record of slot `k` is cancelled, as one movement (R50). -/
def cancelRecord (k : SlotNo) (o : OpenImprint) (s : State) : State :=
  releaseClaim
    (setSlot k none
      (modHead o.head (fun r => { r with
          headReserved := r.headReserved - o.total
          ring := pushRing o.tag .cancelled r.ring })
        (modPool (fun p => { p with
          descending := p.descending + o.total
          reservedTotal := p.reservedTotal - o.total }) s)))

/-- The engine's part of a CANCEL of head `h` (R46, R50). -/
def cancelFor (h : Head) (fits : Bool) (tag : Nat) (s : State) : Answer :=
  if s.service.state = .blank then refuse s .state .none
  else if !fits || decide (tag = 0) then refuse s .format .none
  else match findTag tag s with
    | none => answerFromRing h tag s
    | some (k, o) =>
      if o.head ≠ h then refuse s .notOwner .none
      else accept (cancelRecord k o s) (.cancelled o.tag o.imprintNumber o.total)

/-- The engine's part of CANCEL (R50). -/
def engineCancel (q : Req) (tag : Nat) (s : State) : Answer :=
  match portHead q.port with
  | some h => cancelFor h q.fits tag s
  | none => refuse s .role .none

/-- CANCEL (R50). -/
def execCancel (q : Req) (tag : Nat) (s : State) : Host.Outcome State Fault Refusal :=
  .next (serve (.cancel q tag) q (engineCancel q tag) s)

/-! ### LIST_OPEN (R56) -/

/-- One record as LIST_OPEN lists it (R56). -/
def openItem (k : SlotNo) (o : OpenImprint) : OpenItem where
  slot := k
  tag := o.tag
  head := o.head
  imprintNumber := o.imprintNumber
  dayReserved := o.dayReserved
  laneA := (o.laneA.cls, o.laneA.pieces)
  laneB := o.laneB.map fun l => (l.cls, l.pieces)
  total := o.total
  holdRemaining := o.holdRemaining

/-- The open records in slot order, of one head or, when no head is given, of all (R56). -/
def openItems (h : Option Head) (s : State) : List OpenItem :=
  (numbers 16).filterMap fun k =>
    match s.slots.get k with
    | some o => if h = none ∨ h = some o.head then some (openItem k o) else none
    | none => none

/-- The engine's part of LIST_OPEN (R56). -/
def engineListOpen (q : Req) (head : Option Nat) (s : State) : Answer :=
  match portHead q.port with
  | some h =>
    if !q.fits || head.isSome then refuse s .format .none else accept s (.openList (openItems (some h) s))
  | none =>
    if !q.fits then refuse s .format .none
    else match head with
      | none => accept s (.openList (openItems none s))
      | some n => match index 6 n with
        | some h => accept s (.openList (openItems (some h) s))
        | none => refuse s .format .none

/-- LIST_OPEN (R56). -/
def execListOpen (q : Req) (head : Option Nat) (s : State) : Host.Outcome State Fault Refusal :=
  .next (serve (.listOpen q head) q (engineListOpen q head) s)

/-! ### COMPARE (R34 to R36) -/

/-- The residue choice as the engine applies it, or absent when it fails the format check (R34, R36). -/
def applyResidue (p : Port) (s : State) : ResidueChoice → Option AppliedResidue
  | .any => some .any
  | .value r => if r ≤ 9 then some (.value r) else none
  | .own => (portHead p).map fun h => .own (s.heads.get h).residue
  | .unrecognised => none

/-- The set of residues of a choice (R35). -/
def residueSet : AppliedResidue → List Nat
  | .any => List.range 10
  | .value r => [r]
  | .own r => [r]

/-- The engine's part of COMPARE (R34 to R36). -/
def engineCompare (q : Req) (x y pieces : Nat) (residue : ResidueChoice) (s : State) : Answer :=
  if !q.fits || lanePartBad x pieces || lanePartBad y pieces then refuse s .format .none
  else match applyResidue q.port s residue with
    | none => refuse s .format .none
    | some choice =>
      match priceLane s.rates (classOf x) pieces with
      | .error c => refuse s c (.side .a)
      | .ok lx =>
        match priceLane s.rates (classOf y) pieces with
        | .error c => refuse s c (.side .b)
        | .ok ly =>
          let rs := residueSet choice
          accept s (.compared (sideResult lx rs) (sideResult ly rs)
            (compareCharges (sideCharges lx rs) (sideCharges ly rs)) choice)

/-- COMPARE (R34). -/
def execCompare (q : Req) (x y pieces : Nat) (residue : ResidueChoice) (s : State) : Host.Outcome State Fault Refusal :=
  .next (serve (.compare q x y pieces residue) q (engineCompare q x y pieces residue) s)

end Sys2Proof.Machine
end

