-- ==== Sys2Proof/Machine/Events.lean ====
section
/-! DEFINITION. The events of the open imprint table, the time base, the monitors, reset and power-up (chapters 3 and 11).
While the reset input is asserted the part does nothing but wait for its release or a cold start (log 17). -/

namespace Sys2Proof.Machine

open Sys2Proof.Config

/-! ### Holds (R51 to R53) -/

/-- A slot after one second: the hold remaining of an open record above 0 is lowered by one (R51). -/
def secondPasses : Option OpenImprint → Option OpenImprint
  | some o => some { o with holdRemaining := o.holdRemaining - 1 }
  | none => none

/-- TIME_BASE_SECOND (R51, R164): a lost time base becomes PRESENT and that second is not counted; otherwise every hold
counts down. -/
def execTimeBaseSecond (s : State) : Host.Outcome State Fault Refusal :=
  .next (if s.resetHeld then s
    else if s.service.timeBaseLost then modService (fun v => { v with timeBaseLost := false }) s
    else { s with slots := s.slots.map secondPasses })

/-- Whether a slot's record has fallen due and its expiry has not been handed (R52). -/
def isDue : Option OpenImprint → Bool
  | some o => decide (o.holdRemaining = 0) && !o.handed
  | none => false

/-- HOLD_FALLS_DUE (R52): the table hands the expiry of slot `k`, the first in slot order that has fallen due (log 8). -/
def execHoldFallsDue (k : SlotNo) (s : State) : Host.Outcome State Fault Refusal :=
  .next (if s.resetHeld = false ∧ s.slots.first isDue = some k then
    setSlot k ((s.slots.get k).map fun o => { o with handed := true }) s else s)

/-- HOLD_EXPIRY (R53): the engine takes the handed expiry of slot `k` when it is at its place in the rotation (R52,
R174, log 4). -/
def execHoldExpiry (k : SlotNo) (s : State) : Host.Outcome State Fault Refusal :=
  .next (if s.resetHeld = false ∧ nextTurn s = some (.expiry k) then
    match s.slots.get k with
    | some o =>
      let s' := takeExpiry k o s
      { s' with search := searchAfterExpiry s' }
    | none => s
  else s)

/-! ### The monitors (R162 to R164) -/

/-- TIME_BASE_TIMEOUT (R164): the time base becomes LOST and TIME_BASE_LOST is raised; a time base already LOST stays so
(log 18). -/
def execTimeBaseTimeout (s : State) : Host.Outcome State Fault Refusal :=
  .next (if s.resetHeld = true ∨ s.service.timeBaseLost = true then s
    else raiseAlarm srcTimeBaseLost (modService (fun v => { v with timeBaseLost := true }) s))

/-- The tamper input is seen active: the level becomes active and TAMPER is raised (R162, R167). -/
def tamperSeen (s : State) : State :=
  raiseAlarm srcTamper (modService (fun v => { v with tamperActive := true }) s)

/-- TAMPER_INPUT_ACTIVE (R162): the input passes from inactive to active; while it stays active nothing is raised. -/
def execTamperInputActive (s : State) : Host.Outcome State Fault Refusal :=
  .next (if s.resetHeld = true ∨ s.service.tamperActive = true then s else tamperSeen s)

/-- TAMPER_INPUT_INACTIVE (R162): the tamper level becomes inactive and nothing is raised. -/
def execTamperInputInactive (s : State) : Host.Outcome State Fault Refusal :=
  .next (if s.resetHeld then s else modService (fun v => { v with tamperActive := false }) s)

/-- The backup supply is seen low: supply low becomes yes and RETENTION_FAULT is raised (R163, R167). -/
def supplySeenLow (s : State) : State :=
  raiseAlarm srcRetentionFault (modService (fun v => { v with supplyLow := true }) s)

/-- SUPPLY_LOW_INPUT (R163): the input passes from adequate to low. -/
def execSupplyLowInput (s : State) : Host.Outcome State Fault Refusal :=
  .next (if s.resetHeld = true ∨ s.service.supplyLow = true then s else supplySeenLow s)

/-- SUPPLY_ADEQUATE_INPUT (R163): supply low becomes no and nothing is raised. -/
def execSupplyAdequateInput (s : State) : Host.Outcome State Fault Refusal :=
  .next (if s.resetHeld then s else modService (fun v => { v with supplyLow := false }) s)

/-! ### Reset and power-up (R166 to R169) -/

/-- RESET_ASSERTED (R169): the links ignore select from now on. Transactions are whole steps of the model, so none is in
progress. The port contexts, the notice state, and so the attention outputs, the arbiter and the restart's other resets
follow at RESTART, the release of the input, and not at its assertion (DESIGN CHOICE, log 28: R166 calls the assertion the
restart, R167 puts its steps at the release). -/
def execResetAsserted (s : State) : Host.Outcome State Fault Refusal := .next { s with resetHeld := true }

/-- The tamper input is sampled (R167, step 4; R168). -/
def sampleTamper (active : Bool) (s : State) : State :=
  if active then tamperSeen s else modService (fun v => { v with tamperActive := false }) s

/-- The backup-supply monitor input is sampled (R167, step 5; R168). -/
def sampleSupply (low : Bool) (s : State) : State :=
  if low then supplySeenLow s else modService (fun v => { v with supplyLow := false }) s

/-- The service state that step 1 of a restart leaves: HALTED becomes IN_SERVICE (R167). -/
def restartState : ServiceState → ServiceState
  | .halted => .inService
  | v => v

/-- The port contexts, the notice state and the arbiter take their reset values, HALTED becomes IN_SERVICE, and the time
base is PRESENT (R144, R166, R167). -/
def resetContexts (s : State) : State :=
  { s with
    notices := resetNotices
    links := Tab.fill 8 resetLink
    lastServed := 7
    search := .fresh
    resetHeld := false
    service := { s.service with state := restartState s.service.state, timeBaseLost := false } }

/-- The near-full flag is set to yes and evaluated once (R113; R167, step 3). -/
def rearmNearFull (s : State) : State := evaluateNearFull (modAudit (fun a => { a with nearFullArmed := true }) s)

/-- RESTART (R166, R167): the reset values, the restart charges in slot order, the journal's evaluation, and the samples of
the tamper and supply inputs. -/
def execRestart (tamperActive supplyLow : Bool) (s : State) : Host.Outcome State Fault Refusal :=
  .next (sampleSupply supplyLow (sampleTamper tamperActive
    (rearmNearFull ((numbers 16).foldl restartCharge (resetContexts s)))))

/-- COLD_START (R168): every record takes its cold-start value, the part is BLANK, and the inputs are sampled. The queue of
commands is the model's and stays. -/
def execColdStart (tamperActive supplyLow : Bool) (s : State) : Host.Outcome State Fault Refusal :=
  .next (sampleSupply supplyLow (sampleTamper tamperActive { State.reset with pending := s.pending }))

end Sys2Proof.Machine
end

