-- ==== Sys2Proof/Machine/PoolRequests.lean ====
section
/-! DEFINITION. POOL_READ, HEAD_READ, SET_LIMITS, SET_HEAD, SERVICE_READ, COMMISSION and UNLOCK (chapters 1 and 11). -/

namespace Sys2Proof.Machine

open Sys2Proof.Config

/-- IN_SERVICE or HALTED: the states that take configuration requests (R159). -/
def isWorking (v : ServiceState) : Bool := decide (v = .inService) || decide (v = .halted)

/-- The engine's part of POOL_READ (R11). -/
def enginePoolRead (q : Req) (s : State) : Answer :=
  if !q.fits then refuse s .format .none else accept s (.pool s.pool)

/-- POOL_READ (R11). -/
def execPoolRead (q : Req) (s : State) : Host.Outcome State Fault Refusal :=
  .next (serve (.poolRead q) q (enginePoolRead q) s)

/-- The channels of a set, in ascending order (R19). -/
def channelsOf (m : ChannelSet) : List ChannelNo := m.indices id

/-- The engine's part of HEAD_READ (R19). The reply carries the head's number too, which R19 does not name among its items
(DESIGN CHOICE, log 32). -/
def engineHeadRead (q : Req) (head : Nat) (s : State) : Answer :=
  match index 6 head with
  | some h =>
    if !q.fits then refuse s .format .none
    else accept s (.head h (s.heads.get h) (channelsOf (s.heads.get h).inhibitHolders) (headOpenCount h s))
  | none => refuse s .format .none

/-- HEAD_READ (R19). -/
def execHeadRead (q : Req) (head : Nat) (s : State) : Host.Outcome State Fault Refusal :=
  .next (serve (.headRead q head) q (engineHeadRead q head) s)

/-- Whether a new ceiling lies below descending plus the reserved total (R12). -/
def ceilingTooLow (s : State) : Choice Nat → Bool
  | .value c => decide (c < s.pool.descending + s.pool.reservedTotal)
  | _ => false

/-- The pool with the limits SET_LIMITS carries (R12). -/
def setLimits (ceiling threshold floor : Choice Nat) (p : Pool) : Pool :=
  { p with
    ceiling := choiceOr p.ceiling ceiling
    threshold := choiceOr p.threshold threshold
    floor := match floor with
      | .value f => some f
      | _ => p.floor }

/-- The engine's part of SET_LIMITS (R12). -/
def engineSetLimits (q : Req) (ceiling threshold floor : Choice Nat) (s : State) : Answer :=
  if !isWorking s.service.state then refuse s .state .none
  else if !q.fits || choiceBad (fun c => decide (c = 0) || decide (maxPool < c)) ceiling ||
      choiceBad (fun t => decide (maxPool < t)) threshold || choiceBad (fun f => decide (maxPool < f)) floor then
    refuse s .format .none
  else if ceilingTooLow s ceiling then refuse s .ceiling .none
  else
    let s' := modPool (setLimits ceiling threshold floor) s
    accept s' (.limits s'.pool.ceiling s'.pool.threshold s'.pool.floor)

/-- SET_LIMITS (R12). -/
def execSetLimits (q : Req) (ceiling threshold floor : Choice Nat) (s : State) : Host.Outcome State Fault Refusal :=
  .next (serve (.setLimits q ceiling threshold floor) q (engineSetLimits q ceiling threshold floor) s)

/-- The head record with the items SET_HEAD carries, a hold time clamped to 5 to 600 (R18). -/
def setHeadItems (enabled : Choice Bool) (hold : Choice Nat) (cap : CapChoice) (r : HeadRecord) : HeadRecord :=
  { r with
    enabled := choiceOr r.enabled enabled
    holdTime := match hold with
      | .value t => clampHold t
      | _ => r.holdTime
    dailyCap := capOr r.dailyCap cap }

/-- The engine's part of SET_HEAD (R18). -/
def engineSetHead (q : Req) (head : Nat) (enabled : Choice Bool) (hold : Choice Nat) (cap : CapChoice) (s : State) : Answer :=
  if !isWorking s.service.state then refuse s .state .none
  else match index 6 head with
    | none => refuse s .format .none
    | some h =>
      if !q.fits || choiceBad (fun _ => false) enabled || choiceBad (fun _ => false) hold || capBad cap then
        refuse s .format .none
      else
        let s' := modHead h (setHeadItems enabled hold cap) s
        let r := s'.heads.get h
        accept s' (.headConfig r.enabled r.holdTime r.dailyCap)

/-- SET_HEAD (R18). -/
def execSetHead (q : Req) (head : Nat) (enabled : Choice Bool) (hold : Choice Nat) (cap : CapChoice) (s : State) :
    Host.Outcome State Fault Refusal :=
  .next (serve (.setHead q head enabled hold cap) q (engineSetHead q head enabled hold cap) s)

/-- Whether a request that carries no fields is answered FORMAT for its body (log 10). -/
def extraBody (q : Req) (code : Nat) : Bool := !q.fits && bodyMustBeEmpty code

/-- The engine's part of SERVICE_READ (R165). -/
def engineServiceRead (q : Req) (s : State) : Answer :=
  if extraBody q 5 then refuse s .format .none
  else accept s (.service s.service (standingAlarms s.notices))

/-- SERVICE_READ (R165). -/
def execServiceRead (q : Req) (s : State) : Host.Outcome State Fault Refusal :=
  .next (serve (.serviceRead q) q (engineServiceRead q) s)

/-- Whether the tamper level or a hard alarm stands in the way of COMMISSION and UNLOCK (R160, R161). -/
def conditionStands (s : State) : Bool := s.service.tamperActive || !(standingAlarms s.notices).isEmpty

/-- The reply to CONDITION (R160). -/
def conditionBody (s : State) : ReplyBody := .condition s.service.tamperActive (standingAlarms s.notices)

/-- The pool that an accepted COMMISSION leaves; from BLANK the business day becomes 1 (R160). -/
def commissionPool (blank : Bool) (licence ceiling threshold : Nat) (p : Pool) : Pool :=
  { p with licence := licence, ceiling := ceiling, threshold := threshold, day := if blank then 1 else p.day }

/-- The engine's part of COMMISSION (R160). -/
def engineCommission (q : Req) (licence ceiling threshold : Nat) (s : State) : Answer :=
  if s.service.state ≠ .blank ∧ s.service.state ≠ .withdrawn then refuse s .state .none
  else if q.fits = false ∨ licence = 0 ∨ maxLicence < licence ∨ ceiling = 0 ∨ maxPool < ceiling ∨ maxPool < threshold then
    refuse s .format .none
  else if conditionStands s then refuse s .condition (conditionBody s)
  else
    let s' := modService (fun v => { v with state := .inService })
      (modPool (commissionPool (decide (s.service.state = .blank)) licence ceiling threshold) s)
    accept s' (.commissioned s.service.state s'.pool.day licence ceiling threshold)

/-- COMMISSION (R160). -/
def execCommission (q : Req) (licence ceiling threshold : Nat) (s : State) : Host.Outcome State Fault Refusal :=
  .next (serve (.commission q licence ceiling threshold) q (engineCommission q licence ceiling threshold) s)

/-- The state that UNLOCK enters (R161); the lockdown return state is present in LOCKDOWN (R158). -/
def returnTarget (v : Service) : ServiceState := v.returnState.getD .inService

/-- The engine's part of UNLOCK (R161). -/
def engineUnlock (q : Req) (s : State) : Answer :=
  if s.service.state ≠ .lockdown then refuse s .state .none
  else if !q.fits then refuse s .format .none
  else if conditionStands s then refuse s .condition (conditionBody s)
  else
    accept (modService (fun v => { v with state := returnTarget v, returnState := none }) s)
      (.unlocked (returnTarget s.service))

/-- UNLOCK (R161). -/
def execUnlock (q : Req) (s : State) : Host.Outcome State Fault Refusal :=
  .next (serve (.unlock q) q (engineUnlock q) s)

end Sys2Proof.Machine
end

