-- ==== Sys2Proof/Machine/Rates.lean ====
section
/-! DEFINITION. RATE_READ, SET_RATE and WITHDRAW_RATE, and the application of pending entries (chapter 4). -/

namespace Sys2Proof.Machine

open Sys2Proof.Config

/-- The engine's part of RATE_READ (R72). -/
def engineRateRead (q : Req) (cls : Nat) (s : State) : Answer :=
  match index 64 cls with
  | some c => if !q.fits then refuse s .format .none else accept s (.rateClass c (s.rates.get c))
  | none => refuse s .format .none

/-- RATE_READ (R72). -/
def execRateRead (q : Req) (cls : Nat) (s : State) : Host.Outcome State Fault Refusal :=
  .next (serve (.rateRead q cls) q (engineRateRead q cls) s)

/-- Whether a change takes effect at once: its effective day is 0 or not later than the current day (R65, R68). -/
def effectiveNow (effective day : Nat) : Bool := decide (effective ≤ day)

/-- The rate class after an accepted change to `content`, UNSET when absent (R65, R66, R68). -/
def changedRate (content : Option RateEntry) (effective day : Nat) (r : RateClass) : RateClass :=
  if effectiveNow effective day then ⟨content, none⟩ else ⟨r.active, some ⟨effective, content⟩⟩

/-- What becomes of an earlier pending entry (R67). -/
def pendingFate (effective day : Nat) (r : RateClass) : PendingFate :=
  match r.waiting with
  | none => .none
  | some _ => if effectiveNow effective day then .discarded else .replaced

/-- The answer to an accepted rate change of class `c` (R65 to R68). -/
def changeRate (c : ClassNo) (content : Option RateEntry) (effective : Nat) (s : State) : Answer :=
  let day := s.pool.day
  accept (modRate c (changedRate content effective day) s)
    (.rateChanged c (if effectiveNow effective day then .active else .pending)
      (if effectiveNow effective day then day else effective) (pendingFate effective day (s.rates.get c)))

/-- The engine's part of SET_RATE (R64 to R67). A body of the wrong shape breaks no numbered line (log 9). -/
def engineSetRate (q : Req) (cls : Nat) (fields : RateFields) (effective : Nat) (s : State) : Answer :=
  if !isWorking s.service.state then refuse s .state .none
  else if !q.fits then refuse s .format .none
  else match rateLineBroken cls fields with
    | some line => refuse s .format (.formatLine line)
    | none => changeRate (Fin.ofNat 64 cls) (some (rateEntryOf fields)) effective s

/-- SET_RATE (R64). -/
def execSetRate (q : Req) (cls : Nat) (fields : RateFields) (effective : Nat) (s : State) :
    Host.Outcome State Fault Refusal :=
  .next (serve (.setRate q cls fields effective) q (engineSetRate q cls fields effective) s)

/-- The engine's part of WITHDRAW_RATE (R68). Its FORMAT reply names no line of R64 (DESIGN CHOICE, log 29). -/
def engineWithdrawRate (q : Req) (cls effective : Nat) (s : State) : Answer :=
  if !isWorking s.service.state then refuse s .state .none
  else match index 64 cls with
    | none => refuse s .format .none
    | some c => if !q.fits then refuse s .format .none else changeRate c none effective s

/-- WITHDRAW_RATE (R68). -/
def execWithdrawRate (q : Req) (cls effective : Nat) (s : State) : Host.Outcome State Fault Refusal :=
  .next (serve (.withdrawRate q cls effective) q (engineWithdrawRate q cls effective) s)

/-! ### Pending entries at the day close (R70) -/

/-- The kind of the class's pending entry when its effective day is not later than `newDay` (R70). -/
def dueKind (newDay : Nat) (r : RateClass) : Option PendingKind :=
  match r.waiting with
  | some e =>
    if e.effective ≤ newDay then some (if e.content.isSome then .replacement else .withdrawal) else none
  | none => none

/-- A class after the pending entries due on `newDay` are applied (R70). -/
def appliedRate (newDay : Nat) (r : RateClass) : RateClass :=
  match r.waiting with
  | some e => if e.effective ≤ newDay then ⟨e.content, none⟩ else r
  | none => r

/-- The applied list of a close that opens `newDay`: the classes in order, each with its kind (R70). -/
def appliedList (newDay : Nat) (rates : Tab RateClass 64) : List (ClassNo × PendingKind) :=
  (numbers 64).filterMap fun c => (dueKind newDay (rates.get c)).map fun k => (c, k)

end Sys2Proof.Machine
end

