-- ==== Sys2Proof/Machine/Journal.lean ====
section
/-! DEFINITION. JOURNAL_READ, JOURNAL_ACK, DAY_CLOSE and DAY_LOG_READ (chapters 7 and 8). -/

namespace Sys2Proof.Machine

open Sys2Proof.Config

/-- The engine's part of JOURNAL_READ (R110): positions are counted from the oldest entry. -/
def engineJournalRead (q : Req) (offset count : Nat) (s : State) : Answer :=
  if q.fits = false ∨ 511 < offset then refuse s .format .none
  else accept s (.journalWindow (windowCount count) ((s.audit.journal.drop offset).take (windowCount count))
    (unacknowledged s) s.audit.claimed (journalFree s) (oldestSequence s))

/-- JOURNAL_READ (R110). -/
def execJournalRead (q : Req) (offset count : Nat) (s : State) : Host.Outcome State Fault Refusal :=
  .next (serve (.journalRead q offset count) q (engineJournalRead q offset count) s)

/-- The `n` oldest entries leave the journal; the near-full evaluation follows when at least one did (R111, R113). -/
def acknowledge (n : Nat) (s : State) : State :=
  let s' := modAudit (fun a => { a with journal := a.journal.drop n }) s
  if n = 0 then s' else evaluateNearFull s'

/-- The engine's part of JOURNAL_ACK (R111). -/
def engineJournalAck (q : Req) (n : Nat) (s : State) : Answer :=
  if q.fits = false ∨ 512 < n then refuse s .format .none
  else if unacknowledged s < n then refuse s .count (.unacknowledged (unacknowledged s))
  else
    let s' := acknowledge n s
    accept s' (.acknowledged n (unacknowledged s') s'.audit.claimed (journalFree s') (oldestSequence s'))

/-- JOURNAL_ACK (R111). -/
def execJournalAck (q : Req) (n : Nat) (s : State) : Host.Outcome State Fault Refusal :=
  .next (serve (.journalAck q n) q (engineJournalAck q n) s)

/-- The figures of the day in progress (R121, R126). -/
def dayFigures (s : State) : DayFigures where
  day := s.pool.day
  accumulators := s.audit.accumulators
  stock := s.stockDay
  descending := s.pool.descending
  reservedTotal := s.pool.reservedTotal
  openImprints := openCount s

/-- The summary that a close of the current day writes (R121). -/
def daySummary (s : State) : DaySummary where
  figures := dayFigures s
  closeSequence := s.pool.movementSequence
  applied := appliedList (s.pool.day + 1) s.rates

/-- TARIFF_APPLIED is raised when the close applied one entry or more (R71). -/
def raiseTariff (applied newDay : Nat) (s : State) : State :=
  if applied = 0 then s else raiseSource srcTariffApplied (.tariffApplied applied newDay) s

/-- The close of the current day, as one movement (R120). -/
def closeDay (s : State) : State :=
  let summary := daySummary s
  let newDay := s.pool.day + 1
  let s1 := writeFree .dayClose tellerPort (plainItems none 0) s
  let s2 := modAudit (fun a => { a with
    dayLog := (summary :: a.dayLog).take dayLogCapacity
    accumulators := emptyAccumulators }) s1
  let s3 := { s2 with
    heads := s2.heads.map fun h => { h with usedToday := 0 }
    stockDay := emptyStockDay
    pool := { s2.pool with day := newDay }
    rates := s2.rates.map (appliedRate newDay) }
  countEvents (.day newDay) 1 (raiseTariff summary.applied.length newDay s3)

/-- The engine's part of DAY_CLOSE (R118 to R120, R127). -/
def engineDayClose (q : Req) (day : Nat) (s : State) : Answer :=
  if !isWorking s.service.state then refuse s .state .none
  else if q.fits = false ∨ day = 0 then refuse s .format .none
  else if day ≠ s.pool.day then refuse s .wrongDay (.currentDay s.pool.day)
  else if s.pool.day = max32 then refuse s .lastDay (.currentDay s.pool.day)
  else if journalFree s = 0 then refuse s .journalFull .none
  else accept (closeDay s)
    (.dayClosed day (day + 1) s.pool.movementSequence (appliedList (day + 1) s.rates).length (openCount s)
      (s.channels.count daysZero))

/-- DAY_CLOSE (R120). -/
def execDayClose (q : Req) (day : Nat) (s : State) : Host.Outcome State Fault Refusal :=
  .next (serve (.dayClose q day) q (engineDayClose q day) s)

/-- The number of pending entries whose effective day is the day after the current one (R126). -/
def dueNextClose (s : State) : Nat :=
  s.rates.count fun r => match r.waiting with
    | some e => decide (e.effective = s.pool.day + 1)
    | none => false

/-- The engine's part of DAY_LOG_READ (R126). Its FORMAT reply has no body: "every reply" is read as every accepted one
(DESIGN CHOICE, log 29). -/
def engineDayLogRead (q : Req) (position : DayPosition) (s : State) : Answer :=
  let held := s.audit.dayLog.length
  if !q.fits then refuse s .format .none
  else match position with
    | .position n =>
      if 15 < n then refuse s .format .none else accept s (.daySummary s.audit.dayLog[n]? held s.pool.day)
    | .current =>
      accept s (.dayCurrent (dayFigures s) (s.heads.items.map HeadRecord.usedToday) (dueNextClose s) held s.pool.day)
    | .unrecognised => refuse s .format .none

/-- DAY_LOG_READ (R126). -/
def execDayLogRead (q : Req) (position : DayPosition) (s : State) : Host.Outcome State Fault Refusal :=
  .next (serve (.dayLogRead q position) q (engineDayLogRead q position) s)

end Sys2Proof.Machine
end

