-- ==== Sys2Proof/Machine/Notices.lean ====
section
/-! DEFINITION. The notice requests and the port fault record requests (chapter 10). -/

namespace Sys2Proof.Machine

open Sys2Proof.Config

/-- The better of two choices of R149: the higher level, and among equal levels the one met first. -/
def betterSource (u : NoticeUnit) (best : Option SourceNo) (n : SourceNo) : Option SourceNo :=
  match best with
  | none => some n
  | some m => if sourceLevel u m < sourceLevel u n then some n else some m

/-- The eligible source of highest level at port `p`, and among equal levels the one of lowest natural number (R149). -/
def chosenSource (u : NoticeUnit) (p : Port) : Option SourceNo :=
  ((pendingAt u p).filter (eligible u)).foldl (betterSource u) none

/-- The level pushed when a source of level `l` is taken (R149, R152). -/
def pushedLevel (noNesting : Bool) (l : Nat) : Nat := if noNesting ∧ l < 7 then 7 else l

/-- Source `n` is taken at port `p` (R149). -/
def takeSource (p : Port) (n : SourceNo) (s : State) : State :=
  let lvl := pushedLevel (s.notices.ports.get p).noNesting (sourceLevel s.notices n)
  modNoticePort p (fun x => { x with stack := lvl :: x.stack })
    (modNotices (fun u => { u with pending := u.pending.set n none }) s)

/-- The reply to a TAKE_NOTICE that finds no eligible source (R149). -/
def noNoticeBody (p : Port) (s : State) : ReplyBody :=
  .noNotice (pendingAt s.notices p).length (stackTop (s.notices.ports.get p).stack)

/-- The engine's part of TAKE_NOTICE (R149). -/
def engineTakeNotice (q : Req) (s : State) : Answer :=
  if extraBody q 112 then refuse s .format .none
  else match chosenSource s.notices q.port with
    | none => refuse s .none (noNoticeBody q.port s)
    | some n =>
      match s.notices.pending.get n with
      | none => refuse s .none (noNoticeBody q.port s)
      | some r =>
        let s' := takeSource q.port n s
        let top := stackTop (s'.notices.ports.get q.port).stack
        accept s' (.notice ⟨n, sourceLevel s.notices n, top, r.again, r.detail,
          (pendingAt s'.notices q.port).length, top⟩)

/-- TAKE_NOTICE (R149). -/
def execTakeNotice (q : Req) (s : State) : Host.Outcome State Fault Refusal :=
  .next (serve (.takeNotice q) q (engineTakeNotice q) s)

/-- The return from HALTED, evaluated after a NOTICE_DONE on the funding port (R154, log 19). -/
def returnFromHalted (p : Port) (s : State) : State :=
  if p = fundingPort ∧ s.service.state = .halted ∧ standingAlarms s.notices = [] then
    modService (fun v => { v with state := .inService }) s
  else s

/-- The engine's part of NOTICE_DONE (R150). -/
def engineNoticeDone (q : Req) (s : State) : Answer :=
  if extraBody q 113 then refuse s .format .none
  else match (s.notices.ports.get q.port).stack with
    | [] => refuse s .notInService .none
    | l :: rest =>
      accept (returnFromHalted q.port (modNoticePort q.port (fun x => { x with stack := rest }) s))
        (.noticeDone l (stackTop rest))

/-- NOTICE_DONE (R150). -/
def execNoticeDone (q : Req) (s : State) : Host.Outcome State Fault Refusal :=
  .next (serve (.noticeDone q) q (engineNoticeDone q) s)

/-- The engine's part of NOTICE_HOLD (R151). -/
def engineNoticeHold (q : Req) (count : Nat) (s : State) : Answer :=
  if q.fits = false ∨ 255 < count then refuse s .format .none
  else accept (modNoticePort q.port (fun x => { x with holdCount := count }) s) (.holdCount count)

/-- NOTICE_HOLD (R151). -/
def execNoticeHold (q : Req) (count : Nat) (s : State) : Host.Outcome State Fault Refusal :=
  .next (serve (.noticeHold q count) q (engineNoticeHold q count) s)

/-- HOLD_COUNT_END (R151): the lowering of port `p`'s hold count from 1 to 0, taken on its own; attention then follows.
Within a grant the same lowering is part of the grant. Any other hold count is left as it is (DESIGN CHOICE, log 7). -/
def execHoldCountEnd (p : Port) (s : State) : Host.Outcome State Fault Refusal :=
  .next (if s.resetHeld = false ∧ (s.notices.ports.get p).holdCount = 1 then
    modNoticePort p (fun x => { x with holdCount := 0 }) s else s)

/-- The level that NOTICE_LEVEL applies: 8 to 15 are taken as 7 (R147). -/
def appliedLevel (l : Nat) : Nat := min l 7

/-- The level of notice source `n` is set; at level 0 a pending source leaves the pending set (R147). -/
def setLevel (n : Fin 32) (l : Nat) (u : NoticeUnit) : NoticeUnit :=
  { u with
    levels := u.levels.set n l
    pending := if l = 0 then u.pending.set ⟨n.val, by omega⟩ none else u.pending }

/-- The engine's part of NOTICE_LEVEL (R147). -/
def engineNoticeLevel (q : Req) (source level : Nat) (s : State) : Answer :=
  match index 32 source with
  | none => refuse s .format .none
  | some n =>
    let src : SourceNo := ⟨n.val, by omega⟩
    if q.fits = false ∨ 15 < level then refuse s .format .none
    else if sourceDest src ≠ q.port then refuse s .notOwner .none
    else accept (modNotices (setLevel n (appliedLevel level)) s)
      (.noticeLevel n.val (appliedLevel level)
        (decide (appliedLevel level = 0) && (s.notices.pending.get src).isSome))

/-- NOTICE_LEVEL (R147). -/
def execNoticeLevel (q : Req) (source level : Nat) (s : State) : Host.Outcome State Fault Refusal :=
  .next (serve (.noticeLevel q source level) q (engineNoticeLevel q source level) s)

/-- The engine's part of NOTICE_NESTING (R152): ON sets the no-nesting option. -/
def engineNoticeNesting (q : Req) (option : Coded Bool) (s : State) : Answer :=
  match option with
  | .known on =>
    if !q.fits then refuse s .format .none
    else accept (modNoticePort q.port (fun x => { x with noNesting := on }) s) (.noticeNesting on)
  | .unknown => refuse s .format .none

/-- NOTICE_NESTING (R152). -/
def execNoticeNesting (q : Req) (option : Coded Bool) (s : State) : Host.Outcome State Fault Refusal :=
  .next (serve (.noticeNesting q option) q (engineNoticeNesting q option) s)

/-- The engine's part of FAULT_READ (R156). -/
def engineFaultRead (q : Req) (s : State) : Answer :=
  if extraBody q 117 then refuse s .format .none else accept s (.faultRecord (s.links.get q.port).fault)

/-- FAULT_READ (R156). -/
def execFaultRead (q : Req) (s : State) : Host.Outcome State Fault Refusal :=
  .next (serve (.faultRead q) q (engineFaultRead q) s)

/-- A fault record cleared: the enables stay (R156). -/
def clearedFault (f : FaultRecord) : FaultRecord := { f with sticky := false, code := none, number := none }

/-- The engine's part of CLEAR_FAULT (R156). -/
def engineClearFault (q : Req) (s : State) : Answer :=
  if extraBody q 118 then refuse s .format .none
  else accept (modLink q.port (fun l => { l with fault := clearedFault l.fault }) s)
    (.faultRecord (s.links.get q.port).fault)

/-- CLEAR_FAULT (R156). -/
def execClearFault (q : Req) (s : State) : Host.Outcome State Fault Refusal :=
  .next (serve (.clearFault q) q (engineClearFault q) s)

/-- A fault record with its enables as FAULT_ENABLE chooses (R156). -/
def enabledFault (unsetRate funds limit late : EnableChoice) (f : FaultRecord) : FaultRecord :=
  { f with
    unsetRateEnabled := enableOr f.unsetRateEnabled unsetRate
    fundsEnabled := enableOr f.fundsEnabled funds
    limitEnabled := enableOr f.limitEnabled limit
    lateEnabled := enableOr f.lateEnabled late }

/-- The engine's part of FAULT_ENABLE (R156). -/
def engineFaultEnable (q : Req) (unsetRate funds limit late : EnableChoice) (s : State) : Answer :=
  if !q.fits || enableBad unsetRate || enableBad funds || enableBad limit || enableBad late then refuse s .format .none
  else accept (modLink q.port (fun l => { l with fault := enabledFault unsetRate funds limit late l.fault }) s) .none

/-- FAULT_ENABLE (R156). -/
def execFaultEnable (q : Req) (unsetRate funds limit late : EnableChoice) (s : State) :
    Host.Outcome State Fault Refusal :=
  .next (serve (.faultEnable q unsetRate funds limit late) q (engineFaultEnable q unsetRate funds limit late) s)

end Sys2Proof.Machine
end

