-- ==== Sys2Proof/Machine/Refills.lean ====
section
/-! DEFINITION. REFILL, RETURN_CREDIT, DECOMMISSION and REFILL_LOG_READ (chapter 5, R116). -/

namespace Sys2Proof.Machine

open Sys2Proof.Config

/-- The refill log after an entry is placed at its newest end, the oldest dropped when it is full (R81). -/
def pushRefill (log : List RefillEntry) (e : RefillEntry) : List RefillEntry :=
  (log ++ [e]).drop (log.length + 1 - refillLogCapacity)

/-- The answer to a resent voucher, from the newest entry of the refill log (R78). -/
def duplicateBody (amount : Nat) (s : State) : ReplyBody :=
  match s.audit.refillLog.getLast? with
  | some e => .duplicate e.amount e.day e.descendingAfter (decide (e.amount = amount))
  | none => .none

/-- The serial the part expects next, absent when none is next in turn (R78). -/
def expectedSerial (s : State) : Option Nat :=
  if s.pool.lastVoucher = max32 then none else some (s.pool.lastVoucher + 1)

/-- The refill of amount `amount` with serial `serial`, as one movement (R80). -/
def acceptRefill (serial amount : Nat) (s : State) : State :=
  let s1 := modPool (fun p => { p with
    descending := p.descending + amount
    fundedTotal := p.fundedTotal + amount
    lastVoucher := serial }) s
  let s2 := writeFree .refill fundingPort (plainItems none amount) s1
  let s3 := modAudit (fun a => { a with
    refillLog := pushRefill a.refillLog ⟨serial, amount, s1.pool.day, s1.pool.descending⟩ }) s2
  raiseSource srcRefillAccepted (.refillAccepted serial amount s1.pool.descending) (countEvents (.refill serial) 1 s3)

/-- The engine's part of REFILL (R77 to R80). -/
def engineRefill (q : Req) (serial amount licence : Nat) (s : State) : Answer :=
  let p := s.pool
  if s.service.state = .blank then refuse s .state .none
  else if q.fits = false ∨ serial = 0 ∨ max32 < serial ∨ amount = 0 ∨ maxRefill < amount ∨ licence = 0 ∨
      maxLicence < licence then
    refuse s .format .none
  else if serial = p.lastVoucher then refuse s .duplicate (duplicateBody amount s)
  else if serial ≠ p.lastVoucher + 1 then refuse s .sequence (.expected (expectedSerial s))
  else if licence ≠ p.licence then refuse s .licence .none
  else if s.service.state ≠ .inService then refuse s .state .none
  else if p.ceiling < p.descending + p.reservedTotal + amount then
    refuse s .ceiling (.headroom .pool (p.ceiling - (p.descending + p.reservedTotal)))
  else if maxTotal < p.fundedTotal + amount then refuse s .ceiling (.headroom .funded (maxTotal - p.fundedTotal))
  else if journalFree s = 0 then refuse s .journalFull .none
  else accept (acceptRefill serial amount s) (.refilled serial amount (p.descending + amount) (p.fundedTotal + amount))

/-- REFILL (R77). -/
def execRefill (q : Req) (serial amount licence : Nat) (s : State) : Host.Outcome State Fault Refusal :=
  .next (serve (.refill q serial amount licence) q (engineRefill q serial amount licence) s)

/-- `amount` of descending returns to the funding gateway, with its RETURN entry (R85, R87). -/
def returnToGateway (amount : Nat) (s : State) : State :=
  writeFree .returned fundingPort (plainItems none amount)
    (modPool (fun p => { p with
      descending := p.descending - amount
      returnedTotal := p.returnedTotal + amount }) s)

/-- The engine's part of RETURN_CREDIT (R85). -/
def engineReturnCredit (q : Req) (amount : Nat) (s : State) : Answer :=
  if s.service.state ≠ .inService then refuse s .state .none
  else if q.fits = false ∨ amount = 0 ∨ maxPool < amount then refuse s .format .none
  else if journalFree s = 0 then refuse s .journalFull .none
  else if s.pool.descending < amount then refuse s .funds (.descendingFound s.pool.descending)
  else accept (returnToGateway amount s)
    (.returned amount (s.pool.descending - amount) (s.pool.returnedTotal + amount))

/-- RETURN_CREDIT (R85). -/
def execReturnCredit (q : Req) (amount : Nat) (s : State) : Host.Outcome State Fault Refusal :=
  .next (serve (.returnCredit q amount) q (engineReturnCredit q amount) s)

/-- The engine's part of DECOMMISSION (R86, R87). -/
def engineDecommission (q : Req) (s : State) : Answer :=
  if s.service.state ≠ .inService then refuse s .state .none
  else if !q.fits then refuse s .format .none
  else if openCount s ≠ 0 then refuse s .openImprints (.openSlots (openCount s))
  else if journalFree s = 0 then refuse s .journalFull .none
  else accept (modService (fun v => { v with state := .withdrawn }) (returnToGateway s.pool.descending s))
    (.decommissioned s.pool.descending (s.pool.returnedTotal + s.pool.descending))

/-- DECOMMISSION (R86). -/
def execDecommission (q : Req) (s : State) : Host.Outcome State Fault Refusal :=
  .next (serve (.decommission q) q (engineDecommission q) s)

/-- The engine's part of REFILL_LOG_READ (R116): positions are counted from the newest entry. -/
def engineRefillLogRead (q : Req) (offset count : Nat) (s : State) : Answer :=
  if q.fits = false ∨ 31 < offset then refuse s .format .none
  else accept s (.refillLog ((s.audit.refillLog.reverse.drop offset).take (windowCount count))
    s.audit.refillLog.length s.pool.lastVoucher)

/-- REFILL_LOG_READ (R116). -/
def execRefillLogRead (q : Req) (offset count : Nat) (s : State) : Host.Outcome State Fault Refusal :=
  .next (serve (.refillLogRead q offset count) q (engineRefillLogRead q offset count) s)

end Sys2Proof.Machine
end

