-- ==== Sys2Proof/Machine/Stock.lean ====
section
/-! DEFINITION. The stamp stock requests (chapter 6). -/

namespace Sys2Proof.Machine

open Sys2Proof.Config

/-- The denomination of an entry's state, 0 for an UNUSED entry (R102). -/
def denominationOf : StockState → Nat
  | .unused => 0
  | .active d => d
  | .retired d => d

/-- The engine's part of STOCK_DEFINE (R93). -/
def engineStockDefine (q : Req) (entry denomination : Nat) (s : State) : Answer :=
  if !isWorking s.service.state then refuse s .state .none
  else match index 32 entry with
    | none => refuse s .format .none
    | some e =>
      if q.fits = false ∨ denomination = 0 ∨ 99999 < denomination then refuse s .format .none
      else if (s.stock.get e).state ≠ .unused then refuse s .entry (.entryState (s.stock.get e).state)
      else accept (modStock e (fun r => { r with state := .active denomination }) s) (.stockDefined e denomination)

/-- STOCK_DEFINE (R93). -/
def execStockDefine (q : Req) (entry denomination : Nat) (s : State) : Host.Outcome State Fault Refusal :=
  .next (serve (.stockDefine q entry denomination) q (engineStockDefine q entry denomination) s)

/-- The engine's part of STOCK_RETIRE (R94). -/
def engineStockRetire (q : Req) (entry : Nat) (s : State) : Answer :=
  if !isWorking s.service.state then refuse s .state .none
  else match index 32 entry with
    | none => refuse s .format .none
    | some e =>
      let r := s.stock.get e
      if !q.fits then refuse s .format .none
      else match r.state with
        | .active d =>
          if r.onHand ≠ 0 then refuse s .notEmpty (.entryOnHand r.onHand)
          else accept (modStock e (fun r => { r with state := .retired d }) s)
            (.stockRetired e r.received r.issued r.spoiled)
        | _ => refuse s .entry (.entryState r.state)

/-- STOCK_RETIRE (R94). -/
def execStockRetire (q : Req) (entry : Nat) (s : State) : Host.Outcome State Fault Refusal :=
  .next (serve (.stockRetire q entry) q (engineStockRetire q entry) s)

/-- Whether descending less `v` would fall below a present floor (R7, R95). -/
def belowFloor (p : Pool) (v : Nat) : Option Nat :=
  match p.floor with
  | some f => if p.descending - v < f then some f else none
  | none => none

/-- The receive of `n` stamps of value `v` into entry `e`, as one movement (R96). -/
def receiveStamps (e : EntryNo) (n v : Nat) (s : State) : State :=
  writeFree .stockReceive tellerPort (plainItems (some n) v)
    (modStockDay (fun d => { d with purchaseValue := d.purchaseValue + v })
      (modStock e (fun r => { r with received := r.received + n, onHand := r.onHand + n })
        (modPool (fun p => { p with
          descending := p.descending - v
          stockPurchaseTotal := p.stockPurchaseTotal + v }) s)))

/-- The engine's part of STOCK_RECEIVE (R95, R96). -/
def engineStockReceive (q : Req) (entry stamps : Nat) (s : State) : Answer :=
  if s.service.state ≠ .inService then refuse s .state .none
  else match index 32 entry with
    | none => refuse s .format .none
    | some e =>
      let r := s.stock.get e
      if q.fits = false ∨ stamps = 0 ∨ maxCount < stamps then refuse s .format .none
      else match r.state with
        | .active d =>
          let v := stamps * d
          if maxCount < r.received + stamps then refuse s .stockLimit (.entryReceived r.received)
          else if journalFree s = 0 then refuse s .journalFull .none
          else if s.pool.descending < v then refuse s .funds (.stockFunds v s.pool.descending)
          else match belowFloor s.pool v with
            | some f => refuse s .floor (.stockFloor v s.pool.descending f)
            | none => accept (receiveStamps e stamps v s)
              (.stockReceived e stamps v (r.onHand + stamps) (r.received + stamps) (s.pool.descending - v))
        | _ => refuse s .entry (.entryState r.state)

/-- STOCK_RECEIVE (R95). -/
def execStockReceive (q : Req) (entry stamps : Nat) (s : State) : Host.Outcome State Fault Refusal :=
  .next (serve (.stockReceive q entry stamps) q (engineStockReceive q entry stamps) s)

/-- The entry after `n` stamps leave the shelf, sold (`issue`) or spoiled (R98). -/
def movedEntry (issue : Bool) (n : Nat) (r : StockEntry) : StockEntry :=
  if issue then { r with onHand := r.onHand - n, issued := r.issued + n }
  else { r with onHand := r.onHand - n, spoiled := r.spoiled + n }

/-- The issue or spoil of `n` stamps of denomination `d` from entry `e`, as one movement (R98). -/
def moveStamps (issue : Bool) (e : EntryNo) (n d : Nat) (s : State) : State :=
  writeFree (if issue then .stockIssue else .stockSpoil) tellerPort (plainItems (some n) (n * d))
    (modStockDay (fun t => if issue then { t with stampsIssued := t.stampsIssued + n }
        else { t with stampsSpoiled := t.stampsSpoiled + n })
      (modStock e (movedEntry issue n) s))

/-- The engine's part of STOCK_ISSUE (`issue`) and STOCK_SPOIL (R97, R98). R97 names no item for the ENTRY reply; it carries
the entry's state as for R93 to R95 (DESIGN CHOICE, log 29). -/
def engineStockMove (issue : Bool) (q : Req) (entry stamps : Nat) (s : State) : Answer :=
  if !isWorking s.service.state then refuse s .state .none
  else match index 32 entry with
    | none => refuse s .format .none
    | some e =>
      let r := s.stock.get e
      if q.fits = false ∨ stamps = 0 ∨ maxCount < stamps then refuse s .format .none
      else match r.state with
        | .active d =>
          if r.onHand < stamps then refuse s .short (.entryOnHand r.onHand)
          else if journalFree s = 0 then refuse s .journalFull .none
          else accept (moveStamps issue e stamps d s)
            (.stockMoved e stamps (r.onHand - stamps) ((if issue then r.issued else r.spoiled) + stamps))
        | _ => refuse s .entry (.entryState r.state)

/-- STOCK_ISSUE (R98). -/
def execStockIssue (q : Req) (entry stamps : Nat) (s : State) : Host.Outcome State Fault Refusal :=
  .next (serve (.stockIssue q entry stamps) q (engineStockMove true q entry stamps) s)

/-- STOCK_SPOIL (R98). -/
def execStockSpoil (q : Req) (entry stamps : Nat) (s : State) : Host.Outcome State Fault Refusal :=
  .next (serve (.stockSpoil q entry stamps) q (engineStockMove false q entry stamps) s)

/-- The count of `k` stamps of entry `e` (R99, R100). -/
def countShelf (e : EntryNo) (k : Nat) (s : State) : State :=
  let r := s.stock.get e
  let s1 := modStock e (fun r => { r with
    lastCounted := some (k, s.pool.day)
    mismatch := r.mismatch || decide (k ≠ r.onHand) }) s
  if k = r.onHand then s1 else raiseSource srcStockMismatch (.stockMismatch e k r.onHand s.pool.day) s1

/-- The engine's part of STOCK_COUNT (R99). R99 names no item for the ENTRY reply; it carries the entry's state as for R93 to
R95 (DESIGN CHOICE, log 29). -/
def engineStockCount (q : Req) (entry counted : Nat) (s : State) : Answer :=
  if !isWorking s.service.state then refuse s .state .none
  else match index 32 entry with
    | none => refuse s .format .none
    | some e =>
      let r := s.stock.get e
      if q.fits = false ∨ maxCount < counted then refuse s .format .none
      else if r.state = .unused then refuse s .entry (.entryState r.state)
      else accept (countShelf e counted s) (.stockCounted e counted r.onHand (decide (counted = r.onHand)))

/-- STOCK_COUNT (R99). -/
def execStockCount (q : Req) (entry counted : Nat) (s : State) : Host.Outcome State Fault Refusal :=
  .next (serve (.stockCount q entry counted) q (engineStockCount q entry counted) s)

/-- The engine's part of STOCK_CLEAR_MISMATCH (R101). -/
def engineStockClearMismatch (q : Req) (entry : Nat) (s : State) : Answer :=
  if !isWorking s.service.state then refuse s .state .none
  else match index 32 entry with
    | none => refuse s .format .none
    | some e =>
      if !q.fits then refuse s .format .none
      else accept (modStock e (fun r => { r with mismatch := false }) s) (.mismatchCleared e (s.stock.get e).mismatch)

/-- STOCK_CLEAR_MISMATCH (R101). -/
def execStockClearMismatch (q : Req) (entry : Nat) (s : State) : Host.Outcome State Fault Refusal :=
  .next (serve (.stockClearMismatch q entry) q (engineStockClearMismatch q entry) s)

/-- The engine's part of STOCK_READ (R102). -/
def engineStockRead (q : Req) (entry : Nat) (s : State) : Answer :=
  match index 32 entry with
  | none => refuse s .format .none
  | some e =>
    let r := s.stock.get e
    if !q.fits then refuse s .format .none
    else accept s (.stockEntry e r (r.onHand * denominationOf r.state) s.stockDay)

/-- STOCK_READ (R102). -/
def execStockRead (q : Req) (entry : Nat) (s : State) : Host.Outcome State Fault Refusal :=
  .next (serve (.stockRead q entry) q (engineStockRead q entry) s)

end Sys2Proof.Machine
end

