-- ==== Sys2Proof/Machine/WatchRequests.lean ====
section
/-! DEFINITION. WATCH_SET, WATCH_RELEASE, WATCH_READ and WATCH_CHANNEL_ZERO (chapter 9). -/

namespace Sys2Proof.Machine

open Sys2Proof.Config

/-- Whether the channel counts or waits to count (R132). -/
def isLoaded (ch : Channel) : Bool := decide (ch.state = .waiting) || decide (ch.state = .running)

/-- The channel with every control field written and the held settings made absent (R131, R133). -/
def writeControls (f : Controls) (ch : Channel) : Channel :=
  { ch with
    source := f.source
    headMask := f.headMask
    prescale := f.prescale
    start := f.start
    action := f.action
    inhibitMask := f.inhibitMask
    heldSource := none
    heldPrescale := none }

/-- The channel with the fields written that do not disturb its counting, a new source or prescale being held (R132). -/
def holdControls (f : Controls) (ch : Channel) : Channel :=
  { ch with
    headMask := f.headMask
    start := f.start
    action := f.action
    inhibitMask := f.inhibitMask
    heldSource := if f.source = ch.source then none else some f.source
    heldPrescale := if f.prescale = ch.prescale then none else some f.prescale }

/-- A load of reload value `n` (R131). -/
def loadChannel (f : Controls) (n : Nat) (ch : Channel) : Channel :=
  { writeControls f ch with
    reload := n
    pendingReload := none
    count := n
    prescaleCount := 0
    state := match f.start with
      | .auto => .running
      | .onFirst => .waiting }

/-- A STOP (R133). -/
def stopChannel (f : Controls) (ch : Channel) : Channel :=
  { writeControls f ch with
    pendingReload := none
    state := if ch.state = .unloaded then .unloaded else .stopped }

/-- The channel after an accepted WATCH_SET (R131 to R133). -/
def programChannel (f : Controls) (op : WatchOp) (ch : Channel) : Channel :=
  match op with
  | .load n =>
    if isLoaded ch then { holdControls f ch with pendingReload := some (reloadOf n) }
    else loadChannel f (reloadOf n) ch
  | .stop => stopChannel f ch
  | .none => if isLoaded ch then holdControls f ch else writeControls f ch

/-- The operation as the engine applied it (R134). -/
def appliedOp (op : WatchOp) (ch : Channel) : AppliedOp :=
  match op with
  | .load _ => if isLoaded ch then .pending else .loaded
  | .stop => .stop
  | .none => .none

/-- The operation of a WATCH_SET, absent when it is not one of its values; a LOAD carries a reload of 0 to 65,535 (R130),
and a larger one fails line 4, which R130 does not say (DEDUCED, log 23). -/
def operationOf : Coded WatchOp → Option WatchOp
  | .known (.load n) => if 65535 < n then none else some (.load n)
  | .known o => some o
  | .unknown => none

/-- The channel as the reply reports it (R134). -/
def channelReport (ch : Channel) : ChannelReport :=
  ⟨ch.state, ch.count, ch.prescaleCount, ch.reload, ch.pendingReload, ch.heldSource, ch.heldPrescale⟩

/-- The engine's part of WATCH_SET (R130 to R134). A body of the wrong shape is refused at line 2 (log 9). -/
def engineWatchSet (q : Req) (channel : Nat) (fields : ControlFields) (op : Coded WatchOp) (s : State) : Answer :=
  if !isWorking s.service.state then refuse s .state .none
  else match index 8 channel with
    | none => refuse s .format .none
    | some c =>
      if !q.fits then refuse s .format .none
      else if channelPort c ≠ q.port then refuse s .notOwner .none
      else match controlsOf fields, operationOf op with
        | some f, some o =>
          let ch := s.channels.get c
          let ch' := programChannel f o ch
          accept (setChannel c ch' s) (.watchSet c (channelReport ch') (appliedOp o ch))
        | _, _ => refuse s .format .none

/-- WATCH_SET (R130). -/
def execWatchSet (q : Req) (channel : Nat) (fields : ControlFields) (op : Coded WatchOp) (s : State) :
    Host.Outcome State Fault Refusal :=
  .next (serve (.watchSet q channel fields op) q (engineWatchSet q channel fields op) s)

/-- Channel `c` is removed from the inhibit holders of every head (R141). -/
def releaseChannel (c : ChannelNo) (s : State) : State :=
  { s with heads := s.heads.map fun h => { h with inhibitHolders := h.inhibitHolders.set c false } }

/-- The engine's part of WATCH_RELEASE (R141). -/
def engineWatchRelease (q : Req) (channel : Nat) (s : State) : Answer :=
  if !isWorking s.service.state then refuse s .state .none
  else match index 8 channel with
    | none => refuse s .format .none
    | some c =>
      if !q.fits then refuse s .format .none
      else if channelPort c ≠ q.port then refuse s .notOwner .none
      else accept (releaseChannel c s) (.watchReleased c (heldHeads c s))

/-- WATCH_RELEASE (R141). -/
def execWatchRelease (q : Req) (channel : Nat) (s : State) : Host.Outcome State Fault Refusal :=
  .next (serve (.watchRelease q channel) q (engineWatchRelease q channel) s)

/-- The engine's part of WATCH_READ (R142). The reply carries the channel's number too, which R142 does not name among its
items (DESIGN CHOICE, log 32). -/
def engineWatchRead (q : Req) (channel : Nat) (s : State) : Answer :=
  match index 8 channel with
  | none => refuse s .format .none
  | some c => if !q.fits then refuse s .format .none else accept s (.watch c (s.channels.get c) (heldHeads c s))

/-- WATCH_READ (R142). -/
def execWatchRead (q : Req) (channel : Nat) (s : State) : Host.Outcome State Fault Refusal :=
  .next (serve (.watchRead q channel) q (engineWatchRead q channel) s)

/-- WATCH_CHANNEL_ZERO (R138): the counted event that brings channel `c` to zero, taken on its own. Inside a settlement, a
close or a refill the same operation runs within that movement (R135, R137). A channel that the event does not bring to
zero is left as it is (DESIGN CHOICE, log 6). -/
def execWatchChannelZero (c : ChannelNo) (ev : SourceEvent) (s : State) : Host.Outcome State Fault Refusal :=
  let ch := s.channels.get c
  .next (if s.resetHeld = false ∧ ch.state = .running ∧ isEventOf ch ev = true ∧ atLastEvent ch = true then
    channelZero c ev s else s)

end Sys2Proof.Machine
end

