-- ==== Sys2Proof/Machine/Dispatch.lean ====
section
/-! DEFINITION. The meaning of every command: one arm per constructor of Instr. -/

namespace Sys2Proof.Machine

/-- The effect of one command on everything but the queue. -/
def exec (i : Instr) (s : State) : Host.Outcome State Fault Refusal :=
  match i with
  | .status p selector => Sys2Proof.Machine.execStatus p selector s
  | .send p frame => Sys2Proof.Machine.execSend p frame s
  | .read p extent => Sys2Proof.Machine.execRead p extent s
  | .poolRead q => Sys2Proof.Machine.execPoolRead q s
  | .headRead q head => Sys2Proof.Machine.execHeadRead q head s
  | .setLimits q ceiling threshold floor => Sys2Proof.Machine.execSetLimits q ceiling threshold floor s
  | .setHead q head enabled hold cap => Sys2Proof.Machine.execSetHead q head enabled hold cap s
  | .serviceRead q => Sys2Proof.Machine.execServiceRead q s
  | .commission q licence ceiling threshold => Sys2Proof.Machine.execCommission q licence ceiling threshold s
  | .unlock q => Sys2Proof.Machine.execUnlock q s
  | .reserve q body => Sys2Proof.Machine.execReserve q body s
  | .commit q body => Sys2Proof.Machine.execCommit q body s
  | .cancel q tag => Sys2Proof.Machine.execCancel q tag s
  | .listOpen q head => Sys2Proof.Machine.execListOpen q head s
  | .compare q x y pieces residue => Sys2Proof.Machine.execCompare q x y pieces residue s
  | .rateRead q cls => Sys2Proof.Machine.execRateRead q cls s
  | .setRate q cls fields effective => Sys2Proof.Machine.execSetRate q cls fields effective s
  | .withdrawRate q cls effective => Sys2Proof.Machine.execWithdrawRate q cls effective s
  | .refill q serial amount licence => Sys2Proof.Machine.execRefill q serial amount licence s
  | .returnCredit q amount => Sys2Proof.Machine.execReturnCredit q amount s
  | .decommission q => Sys2Proof.Machine.execDecommission q s
  | .refillLogRead q offset count => Sys2Proof.Machine.execRefillLogRead q offset count s
  | .stockDefine q entry denomination => Sys2Proof.Machine.execStockDefine q entry denomination s
  | .stockRetire q entry => Sys2Proof.Machine.execStockRetire q entry s
  | .stockReceive q entry stamps => Sys2Proof.Machine.execStockReceive q entry stamps s
  | .stockIssue q entry stamps => Sys2Proof.Machine.execStockIssue q entry stamps s
  | .stockSpoil q entry stamps => Sys2Proof.Machine.execStockSpoil q entry stamps s
  | .stockCount q entry counted => Sys2Proof.Machine.execStockCount q entry counted s
  | .stockClearMismatch q entry => Sys2Proof.Machine.execStockClearMismatch q entry s
  | .stockRead q entry => Sys2Proof.Machine.execStockRead q entry s
  | .journalRead q offset count => Sys2Proof.Machine.execJournalRead q offset count s
  | .journalAck q number => Sys2Proof.Machine.execJournalAck q number s
  | .dayClose q day => Sys2Proof.Machine.execDayClose q day s
  | .dayLogRead q position => Sys2Proof.Machine.execDayLogRead q position s
  | .watchSet q channel fields op => Sys2Proof.Machine.execWatchSet q channel fields op s
  | .watchRelease q channel => Sys2Proof.Machine.execWatchRelease q channel s
  | .watchRead q channel => Sys2Proof.Machine.execWatchRead q channel s
  | .watchChannelZero channel event => Sys2Proof.Machine.execWatchChannelZero channel event s
  | .takeNotice q => Sys2Proof.Machine.execTakeNotice q s
  | .noticeDone q => Sys2Proof.Machine.execNoticeDone q s
  | .noticeHold q count => Sys2Proof.Machine.execNoticeHold q count s
  | .holdCountEnd p => Sys2Proof.Machine.execHoldCountEnd p s
  | .noticeLevel q source level => Sys2Proof.Machine.execNoticeLevel q source level s
  | .noticeNesting q option => Sys2Proof.Machine.execNoticeNesting q option s
  | .faultRead q => Sys2Proof.Machine.execFaultRead q s
  | .clearFault q => Sys2Proof.Machine.execClearFault q s
  | .faultEnable q unsetRate funds limit late => Sys2Proof.Machine.execFaultEnable q unsetRate funds limit late s
  | .timeBaseSecond => Sys2Proof.Machine.execTimeBaseSecond s
  | .holdFallsDue slot => Sys2Proof.Machine.execHoldFallsDue slot s
  | .holdExpiry slot => Sys2Proof.Machine.execHoldExpiry slot s
  | .timeBaseTimeout => Sys2Proof.Machine.execTimeBaseTimeout s
  | .tamperInputActive => Sys2Proof.Machine.execTamperInputActive s
  | .tamperInputInactive => Sys2Proof.Machine.execTamperInputInactive s
  | .supplyLowInput => Sys2Proof.Machine.execSupplyLowInput s
  | .supplyAdequateInput => Sys2Proof.Machine.execSupplyAdequateInput s
  | .resetAsserted => Sys2Proof.Machine.execResetAsserted s
  | .restart tamperActive supplyLow => Sys2Proof.Machine.execRestart tamperActive supplyLow s
  | .coldStart tamperActive supplyLow => Sys2Proof.Machine.execColdStart tamperActive supplyLow s

end Sys2Proof.Machine
end

