-- ==== Sys2Proof/Safety.lean ====
section
/-! DEFINITION. The terms that statements about the part use: when a request is at its turn, what an answered request leaves
unchanged, and the invariants that the manual gives the records. -/

namespace Sys2Proof.Safety

open Sys2Proof.Machine Sys2Proof.Config

/-! ### Who may send what (R169, R175) -/

/-- The role of a port (R169). -/
inductive Role where
  | head | teller | funding
deriving DecidableEq, Repr

/-- Ports 0 to 5 are head ports, port 6 is the teller port and port 7 the funding port (R169). -/
def roleOf (p : Port) : Role := if p.val ≤ 5 then .head else if p.val = 6 then .teller else .funding

/-- The request codes with the roles that may send each, row by row as R175 lists them. -/
def requestTable : List (Nat × List Role) :=
  [(1, [.head, .teller, .funding]), (2, [.head, .teller, .funding]), (3, [.funding]), (4, [.teller]),
   (5, [.head, .teller, .funding]), (6, [.funding]), (7, [.funding]), (16, [.head]), (17, [.head]), (18, [.head]),
   (19, [.head, .teller, .funding]), (20, [.head, .teller, .funding]), (32, [.head, .teller, .funding]), (33, [.funding]),
   (34, [.funding]), (48, [.funding]), (49, [.funding]), (50, [.funding]), (51, [.teller, .funding])] ++
  [(64, [.teller]), (65, [.teller]), (66, [.teller]), (67, [.teller]), (68, [.teller]), (69, [.teller]), (70, [.funding]),
   (71, [.head, .teller, .funding]), (80, [.funding]), (81, [.funding]), (82, [.teller]), (83, [.teller, .funding]),
   (96, [.teller, .funding]), (97, [.teller, .funding]), (98, [.head, .teller, .funding])] ++
  [(112, [.head, .teller, .funding]), (113, [.head, .teller, .funding]), (114, [.head, .teller, .funding]),
   (115, [.head, .teller, .funding]), (116, [.head, .teller, .funding]), (117, [.head, .teller, .funding]),
   (118, [.head, .teller, .funding]), (119, [.head, .teller, .funding])]

/-- Port `p` may send request code `code` (R175). -/
abbrev MaySend (p : Port) (code : Nat) : Prop := ∃ row ∈ requestTable, row.1 = code ∧ roleOf p ∈ row.2

/-! ### Requests at their turn -/

/-- Request `c` waits in its port's slot and the arbiter grants it now (R171, R174). -/
structure Ready (c : Instr) (q : Req) (s : State) : Prop where
  running : s.resetHeld = false
  waits : ∃ w, (s.links.get q.port).slot = some w ∧ slotCarries w c q = true
  turn : nextTurn s = some (.request q.port)

/-- The parts of the state that a frame statement names. -/
inductive Part where
  | pool | heads | inhibits | slots | rates | stock | stockDay | audit | channels | service | levels | stack | nesting
  | holds | raises | fault
deriving DecidableEq, Repr

/-- What it means that a request from `q` left a part as it was. Two parts say what every grant does: the low-credit
evaluation may write low-credit armed and raise LOW_CREDIT (R6), and the grant lowers the port's hold count (R151). -/
def Kept (q : Req) (s t : State) : Part → Prop
  | .pool => t.pool = { s.pool with lowCreditArmed := t.pool.lowCreditArmed }
  | .heads => ∀ h, { t.heads.get h with inhibitHolders := (s.heads.get h).inhibitHolders } = s.heads.get h
  | .inhibits => ∀ h, (t.heads.get h).inhibitHolders = (s.heads.get h).inhibitHolders
  | .slots => t.slots = s.slots
  | .rates => t.rates = s.rates
  | .stock => t.stock = s.stock
  | .stockDay => t.stockDay = s.stockDay
  | .audit => t.audit = s.audit
  | .channels => t.channels = s.channels
  | .service => t.service = s.service
  | .levels => t.notices.levels = s.notices.levels
  | .stack => ∀ p, (t.notices.ports.get p).stack = (s.notices.ports.get p).stack
  | .nesting => ∀ p, (t.notices.ports.get p).noNesting = (s.notices.ports.get p).noNesting
  | .holds => ∀ p, (t.notices.ports.get p).holdCount =
      if p = q.port then (s.notices.ports.get p).holdCount - 1 else (s.notices.ports.get p).holdCount
  | .raises => ∀ n, n ≠ srcLowCredit → t.notices.pending.get n = s.notices.pending.get n
  | .fault => (t.links.get q.port).fault = (s.links.get q.port).fault

/-- The request of `q` has been answered with reply `r`: its slot is empty and its reply slot holds `r` (R173), its port is
the last served and no search is under way (R174), and of the parts of the state at most those of `changed` are not as
they were. -/
structure Answered (changed : List Part) (q : Req) (s t : State) (r : Reply) : Prop where
  link : t.links.get q.port =
    { s.links.get q.port with slot := none, reply := some r, fault := (t.links.get q.port).fault }
  others : ∀ p, p ≠ q.port → t.links.get p = s.links.get p
  served : t.lastServed = q.port
  search : t.search = .fresh
  running : t.resetHeld = s.resetHeld
  queue : t.pending = s.pending
  kept : ∀ part, part ∉ changed → Kept q s t part

/-- The flags of a money reply in the state that the request left, for a request of head `h` (R20). -/
def moneyFlags (h : Option Head) (wrapped : Bool) (t : State) : ResultFlags where
  z := decide (t.pool.descending = 0)
  l := decide (t.pool.descending < t.pool.threshold)
  w := wrapped
  c := (h.map fun h => decide ((t.heads.get h).residue ≠ 0)).getD false

/-- The reply of a request that was accepted, with clear flags (R20). -/
def okReply (q : Req) (body : ReplyBody) : Reply := ⟨.ok, q.number, ⟨false, false, false, false⟩, body⟩

/-- The reply of a money request that was accepted (R20). -/
def okMoneyReply (q : Req) (h : Option Head) (wrapped : Bool) (t : State) (body : ReplyBody) : Reply :=
  ⟨.ok, q.number, moneyFlags h wrapped t, body⟩

/-- What the pending set holds of source `n` after it is raised once with detail `d` in state `s` (R146). -/
def afterRaise (n : SourceNo) (d : Detail) (s : State) : Option Raised :=
  if sourceLevel s.notices n = 0 then s.notices.pending.get n
  else match s.notices.pending.get n with
    | none => some ⟨0, d⟩
    | some r => some ⟨min (r.again + 1) 255, d⟩

/-- No source outside `ns` is raised, taken or discarded. -/
def RaisesOnly (ns : List SourceNo) (s t : State) : Prop :=
  ∀ n, n ∉ ns → t.notices.pending.get n = s.notices.pending.get n

/-- The sources that the counting of the channels may raise (R139, R140), with LOW_CREDIT and the others named. -/
def watchSources (others : List SourceNo) : List SourceNo :=
  (numbers 8).map srcWatchZero ++ (numbers 6).map srcHeadInhibited ++ others

/-- The link of port `p`, which stood as `l`, has answered a frame itself with `code` (R172): the reply carries clear flags
and no body, the refusal is recorded with the number `number` (R155), PORT_FAULT is raised, and nothing else changes. -/
structure LinkAnswered (p : Port) (l : PortLink) (code : ReplyCode) (number : Option Byte) (s t : State) : Prop where
  rest : t = { s with links := t.links, notices := { s.notices with pending := t.notices.pending } }
  link : t.links.get p = { l with
    overrun := false
    reply := some ⟨code, number.getD 0, ⟨false, false, false, false⟩, .none⟩
    fault := { l.fault with sticky := true, code := some code, number := number } }
  others : ∀ p', p' ≠ p → t.links.get p' = s.links.get p'
  portFault : t.notices.pending.get (srcPortFault p) = afterRaise (srcPortFault p) (.portFault code number) s
  raises : RaisesOnly [srcPortFault p] s t

/-! ### Refusals by the engine (R155) -/

/-- Whether a port's fault record keeps a refusal with this code, by the classes of R155. -/
abbrev KeptRefusal (f : FaultRecord) (code : ReplyCode) : Prop :=
  code ∈ [.format, .role] ∨
    (code ∈ [.unsetRate, .belowMin] ∧ f.unsetRateEnabled = true) ∨
    (code ∈ [.funds, .floor, .ceiling, .short] ∧ f.fundsEnabled = true) ∨
    (code ∈ [.headLimit, .tableFull, .dayCap, .ascLimit, .journalFull, .stockLimit, .lastDay] ∧
      f.limitEnabled = true) ∨
    (code ∈ [.tooLate, .noSuchTag] ∧ f.lateEnabled = true)

/-- The request of `q` is refused with reply `r`: no record changes, and a refusal of a class that is kept is written into the
port's fault record, whose sticky flag it sets, and raises PORT_FAULT (R155). -/
structure Refused (q : Req) (s t : State) (r : Reply) : Prop where
  answered : Answered [.fault, .raises] q s t r
  fault : (t.links.get q.port).fault =
    if KeptRefusal (s.links.get q.port).fault r.code then
      { (s.links.get q.port).fault with sticky := true, code := some r.code, number := some q.number }
    else (s.links.get q.port).fault
  portFault : t.notices.pending.get (srcPortFault q.port) =
    if KeptRefusal (s.links.get q.port).fault r.code then
      afterRaise (srcPortFault q.port) (.portFault r.code (some q.number)) s
    else s.notices.pending.get (srcPortFault q.port)
  raises : RaisesOnly [srcPortFault q.port, srcLowCredit] s t

/-- A money request of `q`, whose head is `h`, is refused with `code` and the flags of the unchanged state (R20). -/
def MoneyRefused (q : Req) (h : Option Head) (s t : State) (code : ReplyCode) (body : ReplyBody) : Prop :=
  Refused q s t ⟨code, q.number, moneyFlags h false t, body⟩

/-- A request of `q` that is no money request is refused with `code` and clear flags (R20). -/
def PlainRefused (q : Req) (s t : State) (code : ReplyCode) (body : ReplyBody) : Prop :=
  Refused q s t ⟨code, q.number, ⟨false, false, false, false⟩, body⟩

/-- An ENTRY refusal reports that the entry is UNUSED, ACTIVE or RETIRED (R93 to R95); which denomination stands beside an
ACTIVE or RETIRED state (log 30) is left open. -/
def ReportsEntry (st : StockState) (refused : ReplyBody → Prop) : Prop :=
  match st with
  | .unused => refused (.entryState .unused)
  | .active _ => ∃ d, refused (.entryState (.active d))
  | .retired _ => ∃ d, refused (.entryState (.retired d))

/-- The reply slot of `q`'s port holds an accepting reply. -/
def AnsweredOk (q : Req) (t : State) : Prop := ∃ r, (t.links.get q.port).reply = some r ∧ r.code = .ok

/-- How a COMMIT or CANCEL of head `h` is refused when no open record holds its tag (R46): TOO_LATE with the closure kind of
the newest entry of the tag in the head's own ring, and NO_SUCH_TAG when the ring does not hold it. -/
def RefusedFromRing (h : Head) (tag : Nat) (s : State) (refused : ReplyCode → ReplyBody → Prop) : Prop :=
  (∀ (i : Nat) (kind : ClosureKind), (s.heads.get h).ring[i]? = some (tag, kind) →
    (∀ j kind', j < i → (s.heads.get h).ring[j]? ≠ some (tag, kind')) → refused .tooLate (.closedAs kind)) ∧
  ((∀ kind, (tag, kind) ∉ (s.heads.get h).ring) → refused .noSuchTag .none)

/-- The open record of slot `k` is the one that `tag` names (R46). -/
def Names (tag : Nat) (k : SlotNo) (o : OpenImprint) (s : State) : Prop :=
  s.slots.get k = some o ∧ o.tag = tag ∧ ∀ j o', j < k → s.slots.get j = some o' → o'.tag ≠ tag

/-! ### The evaluations (R6, R113) -/

/-- What the pending set holds of LOW_CREDIT after the low-credit evaluation of a request whose own effect left `u`, a state
with low-credit armed as it was (R6). -/
def lowCreditAfter (u : State) : Option Raised :=
  if u.service.state ≠ .blank ∧ u.pool.descending < u.pool.threshold ∧ u.pool.lowCreditArmed = true then
    afterRaise srcLowCredit (.lowCredit u.pool.descending u.pool.threshold) u
  else u.notices.pending.get srcLowCredit

/-- The near-full evaluation has followed a change of free between `s` and `t` (R113): below 32 free entries it disarms, and
raises JOURNAL_NEAR_FULL with the counts when it was armed; from 64 on it arms; otherwise nothing changes. -/
structure NearFullEvaluated (s t : State) : Prop where
  armed : t.audit.nearFullArmed =
    if 512 - t.audit.journal.length - t.audit.claimed < 32 then false
    else if 64 ≤ 512 - t.audit.journal.length - t.audit.claimed then true
    else s.audit.nearFullArmed
  alarm : t.notices.pending.get srcNearFull =
    if 512 - t.audit.journal.length - t.audit.claimed < 32 ∧ s.audit.nearFullArmed = true then
      afterRaise srcNearFull (.nearFull (512 - t.audit.journal.length - t.audit.claimed) t.audit.journal.length
        t.audit.claimed) s
    else s.notices.pending.get srcNearFull

/-! ### The control fields of a channel (R128, R130) -/

/-- The control fields `f` of a WATCH_SET pass line 4 of R130, and `g` holds what they name: the coded fields as they are,
each mask as the set of the heads it lists, and the prescale 1 or, for PIECES alone, 100. -/
structure Carries (f : ControlFields) (g : Controls) : Prop where
  source : f.source = .known g.source
  headMask : (∀ h ∈ f.headMask, h ≤ 5) ∧ ∀ h : Head, g.headMask.get h = true ↔ h.val ∈ f.headMask
  prescale : (f.prescale = 1 ∧ g.prescale = .one) ∨ (f.prescale = 100 ∧ g.prescale = .hundred ∧ g.source = .pieces)
  start : f.start = .known g.start
  action : f.action = .known g.action
  inhibitMask : (∀ h ∈ f.inhibitMask, h ≤ 5) ∧ ∀ h : Head, g.inhibitMask.get h = true ↔ h.val ∈ f.inhibitMask

/-- Line 4 of R130 refuses the control fields `f` with operation `op`. That a LOAD of a reload above 65,535 is refused by this
line is the model's choice (DEDUCED, log 23). -/
def FieldsRefused (f : ControlFields) (op : Coded WatchOp) : Prop :=
  f.source = .unknown ∨ f.start = .unknown ∨ f.action = .unknown ∨ op = .unknown ∨
    (∃ n, op = .known (.load n) ∧ 65535 < n) ∨ (∃ h ∈ f.headMask, 5 < h) ∨ (∃ h ∈ f.inhibitMask, 5 < h) ∨
    (f.prescale ≠ 1 ∧ f.prescale ≠ 100) ∨ (f.prescale = 100 ∧ f.source ≠ .known .pieces)

/-! ### The counting of the channels (R135, R139, R140) -/

/-- Event `ev` is one of the source of channel `ch` (R135): a close for DAYS, a refill for REFILLS, and for PIECES a piece
settled by a head in the head mask. -/
abbrev EventFor (ch : Channel) (ev : SourceEvent) : Prop :=
  match ev with
  | .day _ => ch.source = .days
  | .pieces h _ => ch.source = .pieces ∧ ch.headMask.get h = true
  | .refill _ => ch.source = .refills

/-- The state after channel `c` alone has taken the events of some movements, one movement after another (R135). -/
def countedAlone (moves : List (SourceEvent × Nat)) (s : State) (c : ChannelNo) : State :=
  moves.foldl (fun u m => receiveEvents c m.1 m.2 u) s

/-- The holders set of head `h` was empty and is not (R17). -/
def BecomesHeld (h : Head) (s t : State) : Prop :=
  (∀ c, (s.heads.get h).inhibitHolders.get c = false) ∧ ∃ c, (t.heads.get h).inhibitHolders.get c = true

/-- The watch unit has counted the events of the movements `moves` between `s` and `t` (R135): every channel, its number in
the holders sets, and its WATCH_ZERO are as if it had taken them alone (R137 to R140), and HEAD_INHIBITED is raised, by a
channel that holds the head now, for each head whose holders set was empty and is not (R17, R140). -/
structure CountedAll (moves : List (SourceEvent × Nat)) (s t : State) : Prop where
  channels : ∀ c, t.channels.get c = (countedAlone moves s c).channels.get c
  holders : ∀ h c, (t.heads.get h).inhibitHolders.get c = ((countedAlone moves s c).heads.get h).inhibitHolders.get c
  zeros : ∀ c, t.notices.pending.get (srcWatchZero c) = (countedAlone moves s c).notices.pending.get (srcWatchZero c)
  inhibited : ∀ h, BecomesHeld h s t → ∃ c, (t.heads.get h).inhibitHolders.get c = true ∧
    t.notices.pending.get (srcHeadInhibited h) = afterRaise (srcHeadInhibited h) (.headInhibited c) s
  uninhibited : ∀ h, ¬BecomesHeld h s t →
    t.notices.pending.get (srcHeadInhibited h) = s.notices.pending.get (srcHeadInhibited h)

/-- The watch unit has counted `n` events `ev` of one movement between `s` and `t` (R135). -/
abbrev Counted (ev : SourceEvent) (n : Nat) (s t : State) : Prop := CountedAll [(ev, n)] s t

/-! ### Forfeits (R15, R16, R33, R53, R54) -/

/-- The pieces of a forfeit: the reserved pieces of all lanes (R33). -/
def forfeitPieces (o : OpenImprint) : Nat := o.laneA.pieces + (o.laneB.map Lane.pieces).getD 0

/-- The record of the owning head after a forfeit of `o` that closes it as `kind`: the head is charged the total reserve and
the reserved pieces, the residue is carried as if the whole batch had printed, and the tag enters the ring (R14 to R16,
R33). -/
def forfeitedHead (kind : ClosureKind) (o : OpenImprint) (r : HeadRecord) : HeadRecord :=
  let pieces := r.pieceCounter + forfeitPieces o
  { r with
    headReserved := r.headReserved - o.total
    ascending := r.ascending + o.total
    usedToday := r.usedToday + o.total
    residue := (workImprint o.laneA o.laneB o.laneA.pieces ((o.laneB.map Lane.pieces).getD 0) r.residue).residue
    pieceCounter := if 99999999 < pieces then pieces - 100000000 else pieces
    wrapCount := if 99999999 < pieces then min (r.wrapCount + 1) 255 else r.wrapCount
    ring := ((o.tag, kind) :: r.ring.filter fun e => decide (e.1 ≠ o.tag)).take 4 }

/-- The open records, in slot order (R54). -/
def openRecords (s : State) : List OpenImprint := (List.finRange 16).filterMap fun k => s.slots.get k

/-- The record of head `h` after the restart charges of `os`, one after another (R54). -/
def restartedHead (h : Head) (os : List OpenImprint) (r : HeadRecord) : HeadRecord :=
  os.foldl (fun r o => if o.head = h then forfeitedHead .restartCharged o r else r) r

/-- The day accumulators of head `h` after the RESTART_CHARGE entries of `os`, which count no expiry (R114). -/
def restartedDay (h : Head) (os : List OpenImprint) (d : HeadDay) : HeadDay :=
  os.foldl (fun d o => if o.head = h then
    ⟨min (d.piecesSettled + forfeitPieces o) 4294967295, d.valueSettled + o.total, min d.expiries 65535⟩ else d) d

/-- The movement sequence `i` entries after `m` (R9). -/
def sequenceAfter (i m : Nat) : Nat := Nat.repeat (fun m => (m + 1) % 4294967296) i m

/-! ### Hard alarms (R153) -/

/-- Hard alarm `n` is pending at the funding port or its level stands on that port's stack. -/
abbrev AlarmStands (u : NoticeUnit) (n : SourceNo) : Prop :=
  (u.pending.get n).isSome = true ∨ alarmLevel n ∈ (u.ports.get 7).stack

/-- `alarms` lists the hard alarms that are pending or in service at the funding port (R160, R165), in ascending order. -/
structure StandingList (u : NoticeUnit) (alarms : List SourceNo) : Prop where
  ascending : alarms.Pairwise (· < ·)
  complete : ∀ n, n ∈ alarms ↔ (n = 32 ∨ n = 33 ∨ n = 34) ∧ AlarmStands u n

/-- The tamper level is active, or a hard alarm is pending or in service at the funding port (R160, R161). -/
abbrev ConditionStands (s : State) : Prop :=
  s.service.tamperActive = true ∨ ∃ n : SourceNo, (n = 32 ∨ n = 33 ∨ n = 34) ∧ AlarmStands s.notices n

/-- A hard alarm of a higher level than `n` is pending or in service (R153). -/
abbrev Conflict (u : NoticeUnit) (n : SourceNo) : Prop :=
  ∃ m : SourceNo, (m = 32 ∨ m = 33 ∨ m = 34) ∧ m < n ∧ AlarmStands u m

/-- The service state and return state after a hard alarm, by the table of R153; `lock` for TAMPER and for a conflict. -/
def alarmTable (lock : Bool) (v : Service) : Service :=
  match v.state, lock with
  | .inService, true => { v with state := .lockdown, returnState := some .inService }
  | .halted, true => { v with state := .lockdown, returnState := some .inService }
  | .withdrawn, true => { v with state := .lockdown, returnState := some .withdrawn }
  | .inService, false => { v with state := .halted }
  | _, _ => v

/-! ### The bytes of a frame (R172, R176, R177) -/

/-- The number that the `w` bytes from byte `i` on hold, most significant byte first (R172). -/
def numberAt (f : List Byte) (i w : Nat) : Nat := ((f.drop i).take w).foldl (fun n b => 256 * n + b.toNat) 0

/-- The frame holds one number after another from byte `i` on, each given with its width in bytes, and each value that
fits its width is read back. -/
def LaidOut (f : List Byte) : Nat → List (Nat × Nat) → Prop
  | _, [] => True
  | i, (w, v) :: rest => (v < 256 ^ w → numberAt f i w = v) ∧ LaidOut f (i + w) rest

/-- The fields of a notice's detail with their widths, source by source as R177 lists them. The request number of a
PORT_FAULT that has none is not listed: its byte is a free value (log 31). -/
def detailFields : Detail → List (Nat × Nat)
  | .watchZero c n (.day d) => [(1, c.val), (1, 0), (3, n), (4, d)]
  | .watchZero c n (.pieces h t) => [(1, c.val), (1, 1), (3, n), (1, h.val), (2, t)]
  | .watchZero c n (.refill v) => [(1, c.val), (1, 2), (3, n), (4, v)]
  | .imprintExpired t i => [(2, t), (3, i)]
  | .headInhibited c => [(1, c.val)]
  | .lowCredit d t => [(5, d), (5, t)]
  | .refillAccepted v a d => [(4, v), (4, a), (5, d)]
  | .tariffApplied n d => [(1, n), (4, d)]
  | .stockMismatch e k h d => [(1, e.val), (4, k), (4, h), (4, d)]
  | .portFault c none => [(1, replyNumber c), (1, 0)]
  | .portFault c (some n) => [(1, replyNumber c), (1, 1), (1, n.toNat)]
  | .alarm d s => [(4, d), (1, match s with
      | .blank => 0
      | .inService => 1
      | .halted => 2
      | .lockdown => 3
      | .withdrawn => 4)]
  | .nearFull f u c => [(2, f), (2, u), (1, c)]

/-- How many bytes a notice's detail takes (R177). -/
def detailSize : Detail → Nat
  | .portFault _ _ => 3
  | d => ((detailFields d).map Prod.fst).sum

/-! ### The money of the site (R2, R4, R14, R24, R25) -/

/-- The total reserve of a slot, 0 when it is FREE. -/
def reserveOf : Option OpenImprint → Nat
  | some o => o.total
  | none => 0

/-- The total reserve of a slot whose record is head `h`'s, else 0. -/
def reserveOfHead (h : Head) : Option OpenImprint → Nat
  | some o => if o.head = h then o.total else 0
  | none => 0

/-- A lane holds the reserve of its copies and pieces (R24). -/
def LanePriced (l : Lane) : Prop := l.reserve = laneReserve l.classCopy l.fallbackCopy l.pieces

/-- A record's lanes hold their reserves, and its total is their sum (R24, R25). -/
def RecordPriced (o : OpenImprint) : Prop :=
  LanePriced o.laneA ∧ (∀ l, o.laneB = some l → LanePriced l) ∧ o.total = totalReserve o.laneA o.laneB

/-- The balance of R4, the sums of R2 and R14, the priced records and the residues 0 to 9 (R13). -/
structure CreditKept (s : State) : Prop where
  balance : s.pool.fundedTotal = s.pool.returnedTotal +
    (s.pool.descending + s.pool.reservedTotal + s.heads.sum HeadRecord.ascending + s.pool.stockPurchaseTotal)
  reserved : s.pool.reservedTotal = s.slots.sum reserveOf
  headReserved : ∀ h, (s.heads.get h).headReserved = s.slots.sum (reserveOfHead h)
  priced : ∀ k o, s.slots.get k = some o → RecordPriced o
  residues : ∀ h, (s.heads.get h).residue ≤ 9

/-- The lockdown return state is present in LOCKDOWN alone, and is IN_SERVICE or WITHDRAWN (R158). -/
def ReturnStateKept (v : Service) : Prop :=
  match v.returnState with
  | none => v.state ≠ .lockdown
  | some r => v.state = .lockdown ∧ (r = .inService ∨ r = .withdrawn)

/-- Whether the part is BLANK, WITHDRAWN, or locked down out of WITHDRAWN: the states that hold no credit. -/
abbrev HoldsNoCredit (v : Service) : Prop :=
  v.state = .blank ∨ v.state = .withdrawn ∨ v.returnState = some .withdrawn

/-- The ceiling bounds what the pool holds (R5), and the states of a part out of service hold no credit and no open record
(R37, R56, R87, R160, R168). -/
structure CeilingKept (s : State) : Prop extends CreditKept s where
  returnState : ReturnStateKept s.service
  empty : HoldsNoCredit s.service → s.pool.descending + s.pool.reservedTotal = 0
  noRecords : HoldsNoCredit s.service → ∀ k, s.slots.get k = none
  within : s.pool.descending + s.pool.reservedTotal ≤ s.pool.ceiling

/-! ### The audit store (R81, R107, R108) -/

/-- Claimed is the number of OPEN records, the journal keeps within its 512 entries (R108), and its sequence numbers follow
one another from the oldest sequence up to the movement sequence less one, modulo 2^32 (R107). -/
structure JournalKept (s : State) : Prop where
  claimed : s.audit.claimed = openCount s
  room : unacknowledged s + s.audit.claimed ≤ 512
  next : s.pool.movementSequence < 4294967296
  sequence : ∀ i e, s.audit.journal[i]? = some e → e.sequence = (oldestSequence s + i) % 4294967296

/-- The refill log holds at most 32 entries with strictly increasing serials, and its newest serial is the last voucher
serial, which is 0 while the log is empty (R81). -/
structure RefillLogKept (s : State) : Prop where
  size : s.audit.refillLog.length ≤ 32
  rising : (s.audit.refillLog.map RefillEntry.serial).Pairwise (· < ·)
  newest : s.pool.lastVoucher = (s.audit.refillLog.getLast?.map RefillEntry.serial).getD 0

/-! ### The open imprint table (R10, R38, R39) -/

/-- The tags of the open records, and the next tag, lie in 1 to 65,535, no two open records hold one tag (R38), and a head has
at most four open records (R39). -/
structure TagsKept (s : State) : Prop where
  next : 1 ≤ s.pool.nextTag ∧ s.pool.nextTag ≤ 65535
  range : ∀ k o, s.slots.get k = some o → 1 ≤ o.tag ∧ o.tag ≤ 65535
  unique : ∀ j k o o', s.slots.get j = some o → s.slots.get k = some o' → o.tag = o'.tag → j = k
  limit : ∀ h, headOpenCount h s ≤ 4

/-! ### The stock table (R89, R90) -/

/-- The ranges of an entry's fields (R89): received is the sum of on hand, issued and spoiled (R90) and so bounds them, an
ACTIVE or RETIRED entry holds a denomination of 1 to 99,999 cents, and a last counted is at most 99,999,999; an UNUSED entry
has its cold-start values (R93). -/
structure StockEntryKept (e : StockEntry) : Prop where
  balance : e.received = e.onHand + e.issued + e.spoiled
  received : e.received ≤ 99999999
  denomination : ∀ d, e.state = .active d ∨ e.state = .retired d → 1 ≤ d ∧ d ≤ 99999
  lastCounted : ∀ k day, e.lastCounted = some (k, day) → k ≤ 99999999
  unused : e.state = .unused → e.received = 0 ∧ e.mismatch = false ∧ e.lastCounted = none

/-- Every entry of the stock table keeps its ranges and its balance (R89, R90). -/
def StockKept (s : State) : Prop := ∀ e, StockEntryKept (s.stock.get e)

/-! ### The records of a BLANK part (R168) -/

/-- Every retained record stands at its cold-start value: the pool (R1), the heads (R13), the slots FREE (R37), the classes
UNSET with no pending entry (R61), the stock entries UNUSED and the day totals 0 (R89, R91), the journal and the logs empty,
claimed and the accumulators 0 and near-full armed yes (R104, R108, R113, R114), and the channels UNLOADED (R128). -/
structure ColdRecords (s : State) : Prop where
  pool : s.pool = { descending := 0, reservedTotal := 0, fundedTotal := 0, returnedTotal := 0, stockPurchaseTotal := 0
                    ceiling := 0, threshold := 0, floor := none, lowCreditArmed := false, licence := 0, day := 0
                    lastVoucher := 0, movementSequence := 0, nextTag := 1 }
  heads : ∀ h, s.heads.get h = {
    ascending := 0, headReserved := 0, pieceCounter := 0, wrapCount := 0, residue := 0, usedToday := 0
    dailyCap := none, holdTime := 60, enabled := true, inhibitHolders := Tab.fill 8 false, imprintNumber := 1
    ring := [] }
  slots : ∀ k, s.slots.get k = none
  rates : ∀ c, s.rates.get c = ⟨none, none⟩
  stock : ∀ e, s.stock.get e = ⟨.unused, 0, 0, 0, 0, false, none⟩
  stockDay : s.stockDay = ⟨0, 0, 0⟩
  audit : s.audit = ⟨[], 0, true, ⟨Tab.fill 6 ⟨0, 0, 0⟩, 0, 0⟩, [], []⟩
  channels : ∀ c, s.channels.get c = {
    state := .unloaded, source := .days, headMask := Tab.fill 6 false, prescale := .one, prescaleCount := 0
    start := .auto, action := .notice, inhibitMask := Tab.fill 6 false, reload := 65536, pendingReload := none
    heldSource := none, heldPrescale := none, count := 0 }

/-! ### The rate table (R63) -/

/-- Every pending entry's effective day is later than the business day (R63), and a BLANK part, which has no pending entry, has
every record at its cold-start value (R168). -/
structure PendingEntriesKept (s : State) : Prop where
  returnState : ReturnStateKept s.service
  later : ∀ c e, (s.rates.get c).waiting = some e → s.pool.day < e.effective
  blank : s.service.state = .blank → ColdRecords s

/-! ### The watch channels (R128, R129) -/

/-- The ranges of a channel (R128): the count is 0 in UNLOADED alone, and a prescale of 100, present or held, stands with
the source PIECES alone (R130, R132). -/
structure ChannelInRange (ch : Channel) : Prop where
  unloaded : ch.count = 0 ↔ ch.state = .unloaded
  count : ch.count ≤ 65536
  reload : 1 ≤ ch.reload ∧ ch.reload ≤ 65536
  pendingReload : ∀ n, ch.pendingReload = some n → 1 ≤ n ∧ n ≤ 65536
  prescaleCount : ch.prescaleCount ≤ 99
  prescale : ch.prescale = .hundred → ch.source = .pieces
  held : ch.heldPrescale.getD ch.prescale = .hundred → ch.heldSource.getD ch.source = .pieces

/-- Every channel keeps its ranges. -/
def ChannelsKept (s : State) : Prop := ∀ c, ChannelInRange (s.channels.get c)

/-! ### The notice unit (R144, R146) -/

/-- Every stack strictly increases from bottom to top (R144; the list is held top first), a set level is 0 to 7 and a hold
count at most 255 (R144), an again-count is at most 255, and a source disabled by level 0 is not pending (R146, R147). -/
structure NoticesKept (u : NoticeUnit) : Prop where
  rising : ∀ p, (u.ports.get p).stack.Pairwise (· > ·)
  stackLevels : ∀ p l, l ∈ (u.ports.get p).stack → 1 ≤ l ∧ l ≤ 11
  levels : ∀ n, u.levels.get n ≤ 7
  holds : ∀ p, (u.ports.get p).holdCount ≤ 255
  agains : ∀ n r, u.pending.get n = some r → r.again ≤ 255
  disabled : ∀ n, sourceLevel u n = 0 → u.pending.get n = none

/-- The part is HALTED only while a hard alarm is pending or in service at the funding port (R154). -/
structure HaltedKept (s : State) : Prop where
  returnState : ReturnStateKept s.service
  alarm : s.service.state = .halted → standingAlarms s.notices ≠ []

/-! ### The links (R155, R170, R171) -/

/-- A link never holds a request and a reply together (R170); a fault record's sticky flag stands with its code (R155). -/
structure LinkKept (l : PortLink) : Prop where
  apart : l.slot = none ∨ l.reply = none
  fault : l.fault.sticky = l.fault.code.isSome

/-- Every link is kept. -/
def LinksKept (s : State) : Prop := ∀ p, LinkKept (s.links.get p)

/-! ### The ranges of the pool and the heads (R1, R13, R14) -/

/-- The ranges of the credit pool's fields in service state `v` (R1): the ceiling, the licence number and the business day
begin at 1 in every state but BLANK, where they are 0. -/
structure PoolInRange (v : ServiceState) (p : Pool) : Prop where
  blank : v = .blank → p.ceiling = 0 ∧ p.licence = 0 ∧ p.day = 0
  present : v ≠ .blank → 1 ≤ p.ceiling ∧ 1 ≤ p.licence ∧ 1 ≤ p.day
  descending : p.descending ≤ 9999999999
  reservedTotal : p.reservedTotal ≤ 9999999999
  fundedTotal : p.fundedTotal ≤ 999999999999999
  returnedTotal : p.returnedTotal ≤ 999999999999999
  stockPurchaseTotal : p.stockPurchaseTotal ≤ 999999999999999
  ceiling : p.ceiling ≤ 9999999999
  threshold : p.threshold ≤ 9999999999
  floor : ∀ f, p.floor = some f → f ≤ 9999999999
  licence : p.licence ≤ 99999999
  day : p.day ≤ 4294967295
  lastVoucher : p.lastVoucher ≤ 4294967295

/-- The ranges of a head record's fields (R13): ascending and head reserved together keep within 99,999,999,999 and used
today within ascending (R14). -/
structure HeadInRange (h : HeadRecord) : Prop where
  money : h.ascending + h.headReserved ≤ 99999999999
  usedToday : h.usedToday ≤ h.ascending
  wrapCount : h.wrapCount ≤ 255
  dailyCap : ∀ c, h.dailyCap = some c → 1 ≤ c ∧ c ≤ 9999999999
  holdTime : 5 ≤ h.holdTime ∧ h.holdTime ≤ 600
  imprintNumber : 1 ≤ h.imprintNumber ∧ h.imprintNumber ≤ 999999
  ring : h.ring.length ≤ 4
  pieces : h.pieceCounter ≤ 99999999

/-- The credit is kept under the ceiling, every open record has at most 9,999 pieces a lane and at most 600 seconds left (R38),
the pool and the heads keep their ranges (R1, R13, R14), and each head's value settled equals its used today (R114). -/
structure RangesKept (s : State) : Prop extends CeilingKept s where
  lanes : ∀ k o, s.slots.get k = some o →
    o.laneA.pieces ≤ 9999 ∧ ∀ l, o.laneB = some l → l.pieces ≤ 9999
  holds : ∀ k o, s.slots.get k = some o → o.holdRemaining ≤ 600
  poolRange : PoolInRange s.service.state s.pool
  headRange : ∀ h, HeadInRange (s.heads.get h)
  valueSettled : ∀ h, (s.audit.accumulators.heads.get h).valueSettled = (s.heads.get h).usedToday

end Sys2Proof.Safety
end

