-- ==== Sys2Proof/WellFormed.lean ====
section
/-! DEFINITION. Which commands are well formed: every field fits the bytes its frame gives it (R176), or the range the rule
names for its width (DEDUCED, log 23). A well-formed field may still be out of the range a request accepts; that is the
engine's FORMAT. -/

namespace Sys2Proof

/-- Whether `v` fits `n` bytes. -/
def fitsBytes (n v : Nat) : Bool := decide (v < 256 ^ n)

/-- Whether the value of an item, when it carries one, fits `n` bytes. -/
def choiceFits (n : Nat) : Choice Nat → Bool
  | .value v => fitsBytes n v
  | _ => true

/-- Whether the value of a cap item, when it carries one, fits `n` bytes. -/
def capFits (n : Nat) : CapChoice → Bool
  | .value v => fitsBytes n v
  | _ => true

/-- The widths of the RESERVE body (R176): the fields of lane B are carried at 3 groups alone. -/
def ReserveBody.wellFormed (b : ReserveBody) : Bool :=
  fitsBytes 1 b.groups && fitsBytes 1 b.laneCount && fitsBytes 1 b.classA && fitsBytes 2 b.piecesA &&
    fitsBytes 1 b.classB && fitsBytes 2 b.piecesB && (decide (b.groups = 3) || decide (b.classB = 0 ∧ b.piecesB = 0))

/-- The widths of the COMMIT body (R176): the count of lane B is carried at 3 groups alone. -/
def CommitBody.wellFormed (b : CommitBody) : Bool :=
  fitsBytes 1 b.groups && fitsBytes 2 b.tag && fitsBytes 2 b.piecesA && fitsBytes 2 b.piecesB &&
    (decide (b.groups = 3) || decide (b.piecesB = 0))

/-- The widths of the fields of a rate entry (R61, R64). -/
def RateFields.wellFormed (f : RateFields) : Bool :=
  fitsBytes 3 f.unitRate && fitsBytes 3 f.supplement && fitsBytes 2 f.minimum && fitsBytes 1 (f.fallback.getD 0)

/-- The widths of the control fields of a channel (R130): a mask is one byte. -/
def ControlFields.wellFormed (f : ControlFields) : Bool :=
  f.headMask.all (fun h => decide (h < 8)) && f.inhibitMask.all (fun h => decide (h < 8)) && fitsBytes 1 f.prescale

/-- The reload of a LOAD is 0 to 65,535 (R130). -/
def watchOpFits : Coded WatchOp → Bool
  | .known (.load n) => fitsBytes 2 n
  | _ => true

/-- The residue value of a COMPARE is one byte (R34). -/
def residueFits : ResidueChoice → Bool
  | .value r => fitsBytes 1 r
  | _ => true

/-- The position of a DAY_LOG_READ is one byte (R126). -/
def positionFits : DayPosition → Bool
  | .position n => fitsBytes 1 n
  | _ => true

/-- The figures of a source event: a business day from 1, a tag from 1 to 65,535, a voucher serial from 1 (R8, R10, R76). -/
def SourceEvent.wellFormed : SourceEvent → Bool
  | .day d => decide (1 ≤ d) && fitsBytes 4 d
  | .pieces _ t => decide (1 ≤ t) && fitsBytes 2 t
  | .refill s => decide (1 ≤ s) && fitsBytes 4 s

/-- Whether a command is well formed. -/
def Instr.wellFormed : Instr → Bool
  | .status _ selector => decide (selector ≠ 2)
  | .send _ _ => true
  | .read _ _ => true
  | .poolRead _ => true
  | .headRead _ head => fitsBytes 1 head
  | .setLimits _ c t f => choiceFits 5 c && choiceFits 5 t && choiceFits 5 f
  | .setHead _ head _ hold cap => fitsBytes 1 head && choiceFits 2 hold && capFits 5 cap
  | .serviceRead _ => true
  | .commission _ licence ceiling threshold => fitsBytes 4 licence && fitsBytes 5 ceiling && fitsBytes 5 threshold
  | .unlock _ => true
  | .reserve q b => q.fits && b.wellFormed
  | .commit q b => q.fits && b.wellFormed
  | .cancel _ tag => fitsBytes 2 tag
  | .listOpen _ head => fitsBytes 1 (head.getD 0)
  | .compare _ x y pieces residue => fitsBytes 1 x && fitsBytes 1 y && fitsBytes 2 pieces && residueFits residue
  | .rateRead _ cls => fitsBytes 1 cls
  | .setRate _ cls fields effective => fitsBytes 1 cls && fields.wellFormed && fitsBytes 4 effective
  | .withdrawRate _ cls effective => fitsBytes 1 cls && fitsBytes 4 effective
  | .refill _ serial amount licence => fitsBytes 4 serial && fitsBytes 4 amount && fitsBytes 4 licence
  | .returnCredit _ amount => fitsBytes 5 amount
  | .decommission _ => true
  | .refillLogRead _ offset count => fitsBytes 1 offset && fitsBytes 1 count
  | .stockDefine _ entry denomination => fitsBytes 1 entry && fitsBytes 3 denomination
  | .stockRetire _ entry => fitsBytes 1 entry
  | .stockReceive _ entry stamps => fitsBytes 1 entry && fitsBytes 4 stamps
  | .stockIssue _ entry stamps => fitsBytes 1 entry && fitsBytes 4 stamps
  | .stockSpoil _ entry stamps => fitsBytes 1 entry && fitsBytes 4 stamps
  | .stockCount _ entry counted => fitsBytes 1 entry && fitsBytes 4 counted
  | .stockClearMismatch _ entry => fitsBytes 1 entry
  | .stockRead _ entry => fitsBytes 1 entry
  | .journalRead _ offset count => fitsBytes 2 offset && fitsBytes 1 count
  | .journalAck _ number => fitsBytes 2 number
  | .dayClose _ day => fitsBytes 4 day
  | .dayLogRead _ position => positionFits position
  | .watchSet _ channel fields op => fitsBytes 1 channel && fields.wellFormed && watchOpFits op
  | .watchRelease _ channel => fitsBytes 1 channel
  | .watchRead _ channel => fitsBytes 1 channel
  | .watchChannelZero _ event => event.wellFormed
  | .takeNotice _ => true
  | .noticeDone _ => true
  | .noticeHold _ count => fitsBytes 2 count
  | .holdCountEnd _ => true
  | .noticeLevel _ source level => fitsBytes 1 source && fitsBytes 1 level
  | .noticeNesting _ _ => true
  | .faultRead _ => true
  | .clearFault _ => true
  | .faultEnable _ _ _ _ _ => true
  | .timeBaseSecond => true
  | .holdFallsDue _ => true
  | .holdExpiry _ => true
  | .timeBaseTimeout => true
  | .tamperInputActive => true
  | .tamperInputInactive => true
  | .supplyLowInput => true
  | .supplyAdequateInput => true
  | .resetAsserted => true
  | .restart _ _ => true
  | .coldStart _ _ => true

end Sys2Proof
end

