-- ==== Sys2Proof/Certificates/Slice0/Obligations.lean ====
section
/-! DEFINITION. The statements for the provers. Each docstring names the rules a statement rests on; "the model's choice"
marks what a log entry decided. -/

open Sys2Proof Sys2Proof.Machine Sys2Proof.Config Sys2Proof.Safety

/-! ### Steps, turns and transactions -/

/-- A step takes the command at the front of the queue and carries it out on the state with the queue's rest; on an
empty queue the part idles (the model's choice, log 5). -/
def Obligations.StepTakesFrontCommand : Prop :=
  ∀ s : State, (s.pending = [] → step s = .next s) ∧
    ∀ c rest, s.pending = c :: rest → step s = exec c { s with pending := rest }

/-- Every command ends in a next state, whatever its operands and the state, and leaves the queue alone (log 5). -/
def Obligations.EveryCommandCompletes : Prop :=
  ∀ (c : Instr) (s : State), ∃ t, exec c s = .next t ∧ t.pending = s.pending

/-- The course of a request command (R171, R172, R174; the model's choice, logs 3, 4 and 17): with an empty slot its
frame arrives and is taken, or is answered by the link, FORMAT when a RESERVE or COMMIT announces 0 or more than 16
groups and ROLE when the port may not send it; out of its turn it waits; a port that holds another request discards it
and marks OVERRUN; while reset is asserted nothing is taken. No status byte of R169 is recorded for the frame that a command
brings (the model's choice, log 12). The turn (R174): a search begins above the last-served port
and takes the lowest waiting port there; else, at port 0, the first handed expiry in slot order; else the lowest waiting
port up to the last-served one. A search that stands at the expiries takes the first one left, and a search that has
passed them goes on with the lowest waiting port up to the last-served one. The codes that the 42 requests carry, and the
ports whose role may send each, are those of R175, and port h serves head h (R169). -/
def Obligations.RequestTurn : Prop :=
  (∀ (q : Req) (m n k : Nat) (a b c : Choice Nat) (on : Choice Bool) (cap : CapChoice) (rb : ReserveBody) (cb : CommitBody)
    (h : Option Nat) (r : ResidueChoice) (rf : RateFields) (p : DayPosition) (f : ControlFields) (op : Coded WatchOp)
    (o : Coded Bool) (e : EnableChoice),
    (let requests : List Instr :=
      [.poolRead q, .headRead q n, .setLimits q a b c, .setHead q n on a cap, .serviceRead q, .commission q m n k, .unlock q,
        .reserve q rb, .commit q cb, .cancel q n, .listOpen q h, .compare q m n k r, .rateRead q n, .setRate q n rf m,
        .withdrawRate q n m, .refill q m n k, .returnCredit q n, .decommission q, .refillLogRead q m n] ++
      [.stockDefine q m n, .stockRetire q n, .stockReceive q m n, .stockIssue q m n, .stockSpoil q m n, .stockCount q m n,
        .stockClearMismatch q n, .stockRead q n, .journalRead q m n, .journalAck q n, .dayClose q n, .dayLogRead q p,
        .watchSet q n f op, .watchRelease q n, .watchRead q n] ++
      [.takeNotice q, .noticeDone q, .noticeHold q n, .noticeLevel q m n, .noticeNesting q o, .faultRead q, .clearFault q,
        .faultEnable q e e e e]
     requests.map requestHeader = List.replicate 42 (some q) ∧ requests.map requestCode = requestTable.map Prod.fst)) ∧
  (∀ (p : Port) (h : Head), (portHead p = some h ↔ p.val = h.val) ∧ (headPort h).val = h.val) ∧
  (∀ (c : Instr) (q : Req) (s : State), requestHeader c = some q →
    (let badLength := ∃ g, requestGroups c = some g ∧ (g = 0 ∨ 16 < g)
     (s.resetHeld = true → exec c s = .next s) ∧
     (s.resetHeld = false →
      ((s.links.get q.port).slot = none → ¬badLength → MaySend q.port (requestCode c) →
        exec c s = exec c { s with links := s.links.modify q.port fun l =>
          { l with slot := some (.command c), reply := none, overrun := false } }) ∧
      ((s.links.get q.port).slot = none → badLength ∨ ¬MaySend q.port (requestCode c) →
        ∃ t code, exec c s = .next t ∧ (badLength → code = .format) ∧ (¬badLength → code = .role) ∧
          LinkAnswered q.port (s.links.get q.port) code (some q.number) s t) ∧
      (∀ w, (s.links.get q.port).slot = some w → slotCarries w c q = true → nextTurn s ≠ some (.request q.port) →
        exec c s = .next s) ∧
      (∀ w, (s.links.get q.port).slot = some w → slotCarries w c q = false →
        exec c s = .next { s with links := s.links.modify q.port fun l => { l with overrun := true } })))) ∧
  ∀ s : State,
    (let above := fun (p : Port) => s.lastServed < p ∧ (s.links.get p).slot.isSome = true
     let below := fun (p : Port) => p ≤ s.lastServed ∧ (s.links.get p).slot.isSome = true
     let handed := fun (k : SlotNo) => ∃ o, s.slots.get k = some o ∧ o.handed = true
     (s.search = .fresh →
       (∀ p, above p → (∀ p', above p' → p ≤ p') → nextTurn s = some (.request p)) ∧
       ((∀ p, ¬above p) →
         (∀ k, handed k → (∀ j, handed j → k ≤ j) → nextTurn s = some (.expiry k)) ∧
         ((∀ k, ¬handed k) →
           (∀ p, below p → (∀ p', below p' → p ≤ p') → nextTurn s = some (.request p)) ∧
           ((∀ p, ¬below p) → nextTurn s = none)))) ∧
     (s.search = .atExpiries →
       (∀ k, handed k → (∀ j, handed j → k ≤ j) → nextTurn s = some (.expiry k)) ∧
       ((∀ k, ¬handed k) → nextTurn s = nextTurn { s with search := .fresh })) ∧
     (s.search = .pastExpiries →
       (∀ p, below p → (∀ p', below p' → p ≤ p') → nextTurn s = some (.request p)) ∧
       ((∀ p, ¬below p) → nextTurn s = nextTurn { s with search := .fresh })))

/-- STATUS clocks out the link status byte, whatever the selector that makes it one (R169, R170; that it does not read its
selector is log 27): bit 0 REPLY_READY, bit 1 BUSY, bit 2 ATTENTION, bit 3 OVERRUN, bits 4 to 7 always 0; while reset is
asserted data out is released. Nothing else changes. READ (R173): with no reply the length byte 0 clocks out and nothing
else changes; with a reply its frame clocks out from its first byte, with bytes of 0 beyond its end, and the reply slot is
emptied when all 4 x L bytes have been clocked out. A reply frame (R176) is 4 x L bytes long and opens with L, the reply
code by the numbers of R175, the request number and the flags; its other bytes and L itself are the model's free values
where the manual gives no layout (log 11). A notice's reply has L = 7, the notice record in bytes 4 to 9, its source's
detail from byte 10 on and 0 in the bytes beyond; the reply NONE has L = 2, the sources pending in byte 4 and the top in
byte 5 (R177). That the output is recorded is log 12. -/
def Obligations.StatusAndRead : Prop :=
  (∀ (p : Port) (selector : Byte) (s : State),
    (s.resetHeld = true → exec (.status p selector) s =
      .next { s with links := s.links.modify p fun l => { l with out := none } }) ∧
    (s.resetHeld = false → ∃ b : Byte, b = statusByte s p ∧ exec (.status p selector) s =
        .next { s with links := s.links.modify p fun l => { l with out := some ⟨b, []⟩ } } ∧
      b.getLsbD 0 = (s.links.get p).reply.isSome ∧ b.getLsbD 1 = (s.links.get p).slot.isSome ∧
      b.getLsbD 2 = attention s.notices p ∧ b.getLsbD 3 = (s.links.get p).overrun ∧ ∀ i, 4 ≤ i → b.getLsbD i = false)) ∧
  (∀ (p : Port) (extent : ReadExtent) (s : State), s.resetHeld = false →
    ((s.links.get p).reply = none → exec (.read p extent) s =
      .next { s with links := s.links.modify p fun l => { l with out := some ⟨statusByte s p, [0]⟩ } }) ∧
    ∀ r, (s.links.get p).reply = some r →
      (extent = .wholeFrame → exec (.read p extent) s =
        .next { s with links := s.links.modify p fun l =>
          { l with out := some ⟨statusByte s p, replyFrame r⟩, reply := none } }) ∧
      (∀ n, extent = .bytes n → ∃ data : List Byte, data.length = n ∧
        (∀ i, i < n → data[i]? = some ((replyFrame r).getD i 0)) ∧
        exec (.read p extent) s = .next { s with links := s.links.modify p fun l =>
          { l with out := some ⟨statusByte s p, data⟩, reply := if 4 * replyLength r ≤ n then none else some r } })) ∧
  (∀ r : Reply, (replyFrame r).length = 4 * replyLength r ∧
    ((replyFrame r).getD 0 0).toNat = replyLength r ∧ ((replyFrame r).getD 1 0).toNat = replyNumber r.code ∧
    (replyFrame r).getD 2 0 = r.number ∧
    (let f : Byte := (replyFrame r).getD 3 0
     f.getLsbD 0 = r.flags.z ∧ f.getLsbD 1 = r.flags.l ∧ f.getLsbD 2 = r.flags.w ∧ f.getLsbD 3 = r.flags.c ∧
     ∀ i, 4 ≤ i → f.getLsbD i = false) ∧
    (r.body = .none → replyLength r = 1) ∧ (r.body ≠ .none → 2 ≤ replyLength r) ∧
    (∀ n, r.body = .notice n → replyLength r = 7 ∧
      LaidOut (replyFrame r) 4 [(1, n.source.val), (1, n.level), (1, n.pushed), (1, n.again), (1, n.stillPending),
        (1, n.newTop)] ∧
      LaidOut (replyFrame r) 10 (detailFields n.detail) ∧
      ∀ i, 10 + detailSize n.detail ≤ i → i < 28 → (replyFrame r)[i]? = some 0) ∧
    (∀ p t, r.body = .noNotice p t → replyLength r = 2 ∧ LaidOut (replyFrame r) 4 [(1, p), (1, t), (2, 0)])) ∧
  ([.ok, .none, .duplicate] : List ReplyCode).map replyNumber = [0, 1, 2] ∧
  ([.format, .role, .state, .disabled, .inhibited, .unsetRate, .belowMin, .headLimit, .tableFull, .journalFull, .funds,
    .ascLimit, .dayCap, .exceeds, .notOwner, .tooLate, .noSuchTag, .sequence, .licence, .ceiling, .floor, .openImprints,
    .entry, .notEmpty, .short, .stockLimit, .count, .wrongDay, .lastDay, .notInService, .condition] :
    List ReplyCode).map replyNumber = List.range' 16 31

/-- SEND with no frame byte is taken as STATUS and no frame reaches the slot (R169, log 27). SEND of a frame of at least one
byte (R171, R172): with BUSY set it is discarded and OVERRUN is set; otherwise a frame of a wrong length is answered
FORMAT and one whose code the port's role may not send is answered ROLE, each recorded as R155 lays down, and any other
frame waits in the request slot. The last transaction's output is the status byte (log 12). -/
def Obligations.SendTaken : Prop :=
  ∀ (p : Port) (f : List Byte) (s : State), s.resetHeld = false →
    (let l := { s.links.get p with out := some ⟨statusByte s p, []⟩ }
     (f = [] → exec (.send p f) s = .next { s with links := s.links.set p l }) ∧
     (f ≠ [] → ∃ t, exec (.send p f) s = .next t ∧
       (if l.slot.isSome then t = { s with links := s.links.set p { l with overrun := true } }
        else if byteAt f 0 = 0 ∨ f.length ≠ 4 * byteAt f 0 ∨ 64 < f.length then LinkAnswered p l .format f[2]? s t
        else if ¬MaySend p (byteAt f 1) then LinkAnswered p l .role f[2]? s t
        else t = { s with links := s.links.set p { l with overrun := false, reply := none, slot := some (.frame f) } })))

/-- The attention line of a port is driven when its pending set holds an eligible source and the port's hold count is 0
or the source's level is 7 or above (R148). A raise of a notice at level 0 is discarded; otherwise a source that is not
pending enters the pending set with again-count 0 and the raise's detail, and one that is pending has its again-count
raised by one, saturating at 255, and its detail replaced; nothing else changes (R146). The sources have the natural
numbers, the destinations and, for the alarms, the levels of R145, a notice has the level set for it, and a stack's top is
its uppermost level, 0 when it is empty (R144). -/
def Obligations.RaiseAndAttention : Prop :=
  ((∀ c : ChannelNo, (srcWatchZero c).val = c.val ∧ (sourceDest (srcWatchZero c)).val = if c.val ≤ 3 then 7 else 6) ∧
    (∀ h : Head, (srcImprintExpired h).val = 8 + h.val ∧ (sourceDest (srcImprintExpired h)).val = h.val ∧
      (srcHeadInhibited h).val = 14 + h.val ∧ (sourceDest (srcHeadInhibited h)).val = h.val) ∧
    (∀ p : Port, (srcPortFault p).val = 24 + p.val ∧ sourceDest (srcPortFault p) = p) ∧
    [srcLowCredit, srcRefillAccepted, srcTariffApplied, srcStockMismatch, srcTamper, srcRetentionFault, srcTimeBaseLost,
      srcNearFull] = [20, 21, 22, 23, 32, 33, 34, 35] ∧
    ([20, 21, 22, 23, 32, 33, 34, 35] : List SourceNo).map sourceDest = [6, 6, 6, 7, 7, 7, 7, 7] ∧
    (∀ (u : NoticeUnit) (n : Fin 32) (src : SourceNo), src.val = n.val → sourceLevel u src = u.levels.get n) ∧
    (∀ u : NoticeUnit, ([32, 33, 34, 35] : List SourceNo).map (sourceLevel u) = [11, 10, 9, 8]) ∧
    ([32, 33, 34] : List SourceNo).map alarmLevel = [11, 10, 9] ∧
    stackTop [] = 0 ∧ ∀ l rest, stackTop (l :: rest) = l) ∧
  (∀ (u : NoticeUnit) (p : Port), attention u p = true ↔
    ∃ n r, u.pending.get n = some r ∧ sourceDest n = p ∧
      stackTop (u.ports.get p).stack < sourceLevel u n ∧
      ((u.ports.get p).holdCount = 0 ∨ 7 ≤ sourceLevel u n)) ∧
  (∀ (n : SourceNo) (d : Detail) (s : State),
    (sourceLevel s.notices n = 0 → raiseSource n d s = s) ∧
    (sourceLevel s.notices n ≠ 0 → s.notices.pending.get n = none →
      raiseSource n d s = { s with notices := { s.notices with pending := s.notices.pending.set n (some ⟨0, d⟩) } }) ∧
    (∀ r, sourceLevel s.notices n ≠ 0 → s.notices.pending.get n = some r →
      raiseSource n d s = { s with notices := { s.notices with
        pending := s.notices.pending.set n (some ⟨if r.again < 255 then r.again + 1 else 255, d⟩) } }))

/-- The low-credit evaluation follows every granted request (R6): unless the part is left BLANK, low-credit armed
becomes yes when descending is not below the threshold and no otherwise, and LOW_CREDIT is raised when descending is
below it while armed was yes. The clause on the raise leaves out an accepted TAKE_NOTICE or NOTICE_LEVEL, which may take
or discard LOW_CREDIT: NoticeLevelApplied and TakeNoticeChooses say what it then is. -/
def Obligations.LowCreditEvaluation : Prop :=
  ∀ (c : Instr) (q : Req) (s t : State), requestHeader c = some q → Ready c q s → exec c s = .next t →
    (t.service.state = .blank → t.pool.lowCreditArmed = s.pool.lowCreditArmed) ∧
    (t.service.state ≠ .blank → t.pool.lowCreditArmed = decide (t.pool.threshold ≤ t.pool.descending)) ∧
    (((∀ q', c ≠ .takeNotice q') ∧ (∀ q' n l, c ≠ .noticeLevel q' n l) ∨ ¬AnsweredOk q t) →
      t.notices.pending.get srcLowCredit =
        if t.service.state ≠ .blank ∧ t.pool.descending < t.pool.threshold ∧ s.pool.lowCreditArmed = true then
          afterRaise srcLowCredit (.lowCredit t.pool.descending t.pool.threshold) s
        else s.notices.pending.get srcLowCredit)

/-! ### Reads -/

/-- POOL_READ is answered with every field of the credit pool record and the flags, and changes nothing in the records
(R11, R20). A frame whose body is not empty is answered FORMAT (R11; without a body, log 21). -/
def Obligations.PoolReadReply : Prop :=
  ∀ (q : Req) (s : State), Ready (.poolRead q) q s →
    ∃ t, exec (.poolRead q) s = .next t ∧
      (q.fits = true → Answered [] q s t (okMoneyReply q (portHead q.port) false t (.pool s.pool))) ∧
      (q.fits = false → MoneyRefused q (portHead q.port) s t .format .none)

/-- HEAD_READ is answered with every field of the named head's record, its holders in ascending order and the number of
its open records, with C from that head, and changes nothing in the records (R19, R20). That the reply carries the head's
number too is the model's choice (log 32). A head number above 5 (R19), and a body of the wrong shape (log 9), is answered FORMAT
(without a body, log 21); the C flag of a reply that names no head is left open (log 15). -/
def Obligations.HeadReadReply : Prop :=
  (∀ (q : Req) (h : Head) (s : State), Ready (.headRead q h.val) q s →
    ∃ t, exec (.headRead q h.val) s = .next t ∧
      (q.fits = true → Answered [] q s t (okMoneyReply q (some h) false t (.head h (s.heads.get h)
        ((List.finRange 8).filter fun c => (s.heads.get h).inhibitHolders.get c)
        ((List.finRange 16).filter fun k => (s.slots.get k).any fun o => decide (o.head = h)).length))) ∧
      (q.fits = false → MoneyRefused q (some h) s t .format .none)) ∧
  (∀ (q : Req) (n : Nat) (s : State), Ready (.headRead q n) q s → 5 < n →
    ∃ t c, exec (.headRead q n) s = .next t ∧
      Refused q s t ⟨.format, q.number, { moneyFlags none false t with c := c }, .none⟩)

/-- SERVICE_READ is answered with the fields of service control and the hard alarms pending or in service at the funding
port (R165); their ascending order is the model's choice (log 20). -/
def Obligations.ServiceReadReply : Prop :=
  ∀ (q : Req) (s : State), Ready (.serviceRead q) q s → q.fits = true →
    ∃ t alarms, exec (.serviceRead q) s = .next t ∧ Answered [] q s t (okReply q (.service s.service alarms)) ∧
      StandingList s.notices alarms

/-- LIST_OPEN is answered with the open records in slot order: those of the port's own head from a head port, all of
them or those of the head named from the teller and the funding port (R56). The counts of the open records, of all heads and
of one, are the numbers of those slots (R37, R39). A head port that sends a non-empty body, a head above 5 (R56), and a body of
the wrong shape (log 9) are answered FORMAT (without a body, log 21). -/
def Obligations.ListOpenReply : Prop :=
  (∀ s : State, openCount s = ((List.finRange 16).filter fun k => (s.slots.get k).isSome).length ∧
    ∀ h, headOpenCount h s =
      ((List.finRange 16).filter fun k => (s.slots.get k).any fun o => decide (o.head = h)).length) ∧
  (∀ (q : Req) (head : Option Nat) (s : State), Ready (.listOpen q head) q s →
    (q.fits = false ∨ (portHead q.port ≠ none ∧ head ≠ none) ∨ ∃ n, head = some n ∧ 5 < n) →
    ∃ t, exec (.listOpen q head) s = .next t ∧ PlainRefused q s t .format .none) ∧
  ∀ (q : Req) (head : Option Nat) (wanted : Option Head) (s : State), Ready (.listOpen q head) q s → q.fits = true →
    ((head = none ∧ wanted = portHead q.port) ∨
      (portHead q.port = none ∧ ∃ h : Head, head = some h.val ∧ wanted = some h)) →
    ∃ t, exec (.listOpen q head) s = .next t ∧
      Answered [] q s t (okReply q (.openList ((List.finRange 16).filterMap fun k =>
        (s.slots.get k).bind fun o =>
          if wanted = none ∨ wanted = some o.head then
            some { slot := k, tag := o.tag, head := o.head, imprintNumber := o.imprintNumber
                   dayReserved := o.dayReserved, laneA := (o.laneA.cls, o.laneA.pieces)
                   laneB := o.laneB.map fun l => (l.cls, l.pieces), total := o.total
                   holdRemaining := o.holdRemaining }
          else none)))

/-- COMPARE prices both sides as one-lane imprints and orders their charges over the set of residues (R34, R35, R36). It is
answered by the first check of R34 that fails: FORMAT (a body of the wrong shape with it, log 9; without a body, log 21), and
then the rate checks of side X and of side Y, with the side. -/
def Obligations.CompareReply : Prop :=
  (∀ (q : Req) (x y pieces : Nat) (residue : ResidueChoice) (s : State), Ready (.compare q x y pieces residue) q s →
    ∃ t, exec (.compare q x y pieces residue) s = .next t ∧
      (let refused := PlainRefused q s t
       let formatBad := q.fits = false ∨ 63 < x ∨ 63 < y ∨ pieces = 0 ∨ 9999 < pieces ∨ residue = .unrecognised ∨
         (∃ r, residue = .value r ∧ 9 < r) ∨ (residue = .own ∧ portHead q.port = none)
       (formatBad → refused .format .none) ∧
       (¬formatBad → ∀ cx cy : ClassNo, cx.val = x → cy.val = y →
         match priceLane s.rates cx pieces, priceLane s.rates cy pieces with
         | .error e, _ => refused e (.side .a)
         | .ok _, .error e => refused e (.side .b)
         | .ok _, .ok _ => AnsweredOk q t))) ∧
  ∀ (q : Req) (x y : ClassNo) (pieces : Nat) (residue : ResidueChoice) (applied : AppliedResidue) (rs : List Nat)
    (lx ly : Lane) (s : State),
    Ready (.compare q x.val y.val pieces residue) q s → q.fits = true → 1 ≤ pieces → pieces ≤ 9999 →
    ((residue = .any ∧ applied = .any ∧ rs = List.range 10) ∨
      (∃ r, r ≤ 9 ∧ residue = .value r ∧ applied = .value r ∧ rs = [r]) ∨
      (∃ h r, portHead q.port = some h ∧ r = (s.heads.get h).residue ∧ residue = .own ∧ applied = .own r ∧ rs = [r])) →
    priceLane s.rates x pieces = .ok lx → priceLane s.rates y pieces = .ok ly →
    ∃ t X Y result, exec (.compare q x.val y.val pieces residue) s = .next t ∧
      Answered [] q s t (okReply q (.compared X Y result applied)) ∧
      X.effective = (effectiveEntry lx pieces).1 ∧ Y.effective = (effectiveEntry ly pieces).1 ∧
      X.reserve = lx.reserve ∧ Y.reserve = ly.reserve ∧
      (∀ r ∈ rs, X.least ≤ (workLane lx pieces r).charge ∧ (workLane lx pieces r).charge ≤ X.greatest) ∧
      (∀ r ∈ rs, Y.least ≤ (workLane ly pieces r).charge ∧ (workLane ly pieces r).charge ≤ Y.greatest) ∧
      (∃ r ∈ rs, X.least = (workLane lx pieces r).charge) ∧ (∃ r ∈ rs, X.greatest = (workLane lx pieces r).charge) ∧
      (∃ r ∈ rs, Y.least = (workLane ly pieces r).charge) ∧ (∃ r ∈ rs, Y.greatest = (workLane ly pieces r).charge) ∧
      (result = .less ↔ ∀ r ∈ rs, (workLane lx pieces r).charge < (workLane ly pieces r).charge) ∧
      (result = .greater ↔ ∀ r ∈ rs, (workLane ly pieces r).charge < (workLane lx pieces r).charge) ∧
      (result = .equal ↔ ∀ r ∈ rs, (workLane lx pieces r).charge = (workLane ly pieces r).charge)

/-- RATE_READ, STOCK_READ and WATCH_READ are answered with every field of the named record and change nothing in the
records (R72, R102, R142). That WATCH_READ's reply carries the channel's number too is the model's choice
(log 32). A number above the table's last, and a body of the wrong shape (log 9), is answered FORMAT (without a body: log
21). -/
def Obligations.TableReadReplies : Prop :=
  (∀ (q : Req) (c : ClassNo) (s : State), Ready (.rateRead q c.val) q s → q.fits = true →
    ∃ t, exec (.rateRead q c.val) s = .next t ∧ Answered [] q s t (okReply q (.rateClass c (s.rates.get c)))) ∧
  (∀ (q : Req) (e : EntryNo) (s : State), Ready (.stockRead q e.val) q s → q.fits = true →
    ∃ t value, exec (.stockRead q e.val) s = .next t ∧
      Answered [] q s t (okReply q (.stockEntry e (s.stock.get e) value s.stockDay)) ∧
      ((s.stock.get e).state = .unused → value = 0) ∧
      ∀ d, (s.stock.get e).state = .active d ∨ (s.stock.get e).state = .retired d → value = (s.stock.get e).onHand * d) ∧
  (∀ (q : Req) (c : ChannelNo) (s : State), Ready (.watchRead q c.val) q s → q.fits = true →
    ∃ t, exec (.watchRead q c.val) s = .next t ∧
      Answered [] q s t (okReply q (.watch c (s.channels.get c)
        ((List.finRange 6).filter fun h => (s.heads.get h).inhibitHolders.get c)))) ∧
  (∀ (q : Req) (c : Instr) (n : Nat) (s : State),
    ((c = .rateRead q n ∧ (q.fits = false ∨ 63 < n)) ∨ (c = .stockRead q n ∧ (q.fits = false ∨ 31 < n)) ∨
      (c = .watchRead q n ∧ (q.fits = false ∨ 7 < n))) → Ready c q s →
    ∃ t, exec c s = .next t ∧ PlainRefused q s t .format .none)

/-- JOURNAL_READ and REFILL_LOG_READ are answered with a window of at most eight entries, the journal counted from its
oldest entry and the refill log from its newest, and DAY_LOG_READ with the summary at a position or with the figures of
the day in progress; none of them changes a record (R110, R116, R126). An offset above 511 or above 31, a position above 15, an
unrecognised choice, and a body of the wrong shape (log 9) are answered FORMAT (R110, R116, R126), without a body (log 21) but
for DAY_LOG_READ's, which is left open (log 29). -/
def Obligations.LogReadReplies : Prop :=
  (∀ (q : Req) (offset count : Nat) (s : State), Ready (.journalRead q offset count) q s → q.fits = true → offset ≤ 511 →
    ∃ t, exec (.journalRead q offset count) s = .next t ∧
      Answered [] q s t (okReply q (.journalWindow (min count 8) ((s.audit.journal.drop offset).take (min count 8))
        s.audit.journal.length s.audit.claimed (512 - s.audit.journal.length - s.audit.claimed) (oldestSequence s)))) ∧
  (∀ (q : Req) (offset count : Nat) (s : State), Ready (.refillLogRead q offset count) q s → q.fits = true → offset ≤ 31 →
    ∃ t, exec (.refillLogRead q offset count) s = .next t ∧
      Answered [] q s t (okReply q (.refillLog ((s.audit.refillLog.reverse.drop offset).take (min count 8))
        s.audit.refillLog.length s.pool.lastVoucher))) ∧
  (∀ (q : Req) (n : Nat) (s : State), Ready (.dayLogRead q (.position n)) q s → q.fits = true → n ≤ 15 →
    ∃ t, exec (.dayLogRead q (.position n)) s = .next t ∧
      Answered [] q s t (okReply q (.daySummary s.audit.dayLog[n]? s.audit.dayLog.length s.pool.day))) ∧
  (∀ (q : Req) (s : State), Ready (.dayLogRead q .current) q s → q.fits = true →
    ∃ t due, exec (.dayLogRead q .current) s = .next t ∧
      Answered [] q s t (okReply q (.dayCurrent
        { day := s.pool.day, accumulators := s.audit.accumulators, stock := s.stockDay, descending := s.pool.descending
          reservedTotal := s.pool.reservedTotal, openImprints := openCount s }
        ((List.finRange 6).map fun h => (s.heads.get h).usedToday) due s.audit.dayLog.length s.pool.day)) ∧
      due = ((List.finRange 64).filter fun c =>
        (s.rates.get c).waiting.any fun e => decide (e.effective = s.pool.day + 1)).length) ∧
  (∀ (q : Req) (c : Instr) (offset count : Nat) (s : State),
    ((c = .journalRead q offset count ∧ (q.fits = false ∨ 511 < offset)) ∨
      (c = .refillLogRead q offset count ∧ (q.fits = false ∨ 31 < offset))) → Ready c q s →
    ∃ t, exec c s = .next t ∧ PlainRefused q s t .format .none) ∧
  (∀ (q : Req) (p : DayPosition) (s : State), Ready (.dayLogRead q p) q s →
    (q.fits = false ∨ p = .unrecognised ∨ ∃ n, p = .position n ∧ 15 < n) →
    ∃ t body, exec (.dayLogRead q p) s = .next t ∧ PlainRefused q s t .format body)

/-- FAULT_READ and CLEAR_FAULT are answered with the port's fault record as it stood; CLEAR_FAULT then clears the sticky
flag, the code and the request number, and FAULT_ENABLE writes the four enables it chooses (R156). That the reply to
FAULT_ENABLE has no body is the model's choice (log 21). An unrecognised choice, and a body of the wrong shape (log 9), is
answered FORMAT, which R155 records, and writes no enable (R156; without a body, log 21). -/
def Obligations.FaultRequests : Prop :=
  (∀ (q : Req) (s : State), Ready (.faultRead q) q s → q.fits = true →
    ∃ t, exec (.faultRead q) s = .next t ∧
      Answered [] q s t (okReply q (.faultRecord (s.links.get q.port).fault))) ∧
  (∀ (q : Req) (s : State), Ready (.clearFault q) q s → q.fits = true →
    ∃ t, exec (.clearFault q) s = .next t ∧
      Answered [.fault] q s t (okReply q (.faultRecord (s.links.get q.port).fault)) ∧
      (t.links.get q.port).fault =
        { (s.links.get q.port).fault with sticky := false, code := none, number := none }) ∧
  (∀ (q : Req) (a b c d : EnableChoice) (s : State), Ready (.faultEnable q a b c d) q s → q.fits = true →
    a ≠ .unrecognised → b ≠ .unrecognised → c ≠ .unrecognised → d ≠ .unrecognised →
    ∃ t, exec (.faultEnable q a b c d) s = .next t ∧ Answered [.fault] q s t (okReply q .none) ∧
      (let f := (s.links.get q.port).fault
       let g := (t.links.get q.port).fault
       let chosen := fun (x : EnableChoice) (old new : Bool) =>
         (x = .leave → new = old) ∧ (x = .enable → new = true) ∧ (x = .disable → new = false)
       g.sticky = f.sticky ∧ g.code = f.code ∧ g.number = f.number ∧
       chosen a f.unsetRateEnabled g.unsetRateEnabled ∧ chosen b f.fundsEnabled g.fundsEnabled ∧
       chosen c f.limitEnabled g.limitEnabled ∧ chosen d f.lateEnabled g.lateEnabled)) ∧
  (∀ (q : Req) (a b c d : EnableChoice) (s : State), Ready (.faultEnable q a b c d) q s →
    (q.fits = false ∨ EnableChoice.unrecognised ∈ [a, b, c, d]) →
    ∃ t, exec (.faultEnable q a b c d) s = .next t ∧ PlainRefused q s t .format .none)

/-! ### Configuration -/

/-- SET_LIMITS, in IN_SERVICE or HALTED and with values in range and a ceiling not below descending plus the reserved
total, writes every new value it carries and nothing else (R12). It is refused STATE in the other states, FORMAT for a value
out of range (and a body of the wrong shape, log 9), and CEILING for a new ceiling below descending plus the reserved total;
that these replies have no body is the model's choice (log 21). -/
def Obligations.SetLimitsApplied : Prop :=
  (∀ (q : Req) (c t f : Choice Nat) (s : State), Ready (.setLimits q c t f) q s →
    ∃ u, exec (.setLimits q c t f) s = .next u ∧
      (let refused := MoneyRefused q (portHead q.port) s u
       let taken := s.service.state = .inService ∨ s.service.state = .halted
       let formatBad := q.fits = false ∨ c = .unrecognised ∨ t = .unrecognised ∨ f = .unrecognised ∨
         (∃ v, c = .value v ∧ (v = 0 ∨ 9999999999 < v)) ∨ (∃ v, t = .value v ∧ 9999999999 < v) ∨
         (∃ v, f = .value v ∧ 9999999999 < v)
       let tooLow := ∃ v, c = .value v ∧ v < s.pool.descending + s.pool.reservedTotal
       (¬taken → refused .state .none) ∧ (taken → formatBad → refused .format .none) ∧
       (taken → ¬formatBad → tooLow → refused .ceiling .none) ∧ (taken → ¬formatBad → ¬tooLow → AnsweredOk q u))) ∧
  ∀ (q : Req) (c t f : Choice Nat) (s : State), Ready (.setLimits q c t f) q s →
    (s.service.state = .inService ∨ s.service.state = .halted) → q.fits = true →
    (∀ v, c = .value v → 1 ≤ v ∧ v ≤ 9999999999 ∧ s.pool.descending + s.pool.reservedTotal ≤ v) → c ≠ .unrecognised →
    (∀ v, t = .value v → v ≤ 9999999999) → t ≠ .unrecognised →
    (∀ v, f = .value v → v ≤ 9999999999) → f ≠ .unrecognised →
    ∃ u, exec (.setLimits q c t f) s = .next u ∧
      Answered [.pool] q s u (okMoneyReply q (portHead q.port) false u
        (.limits u.pool.ceiling u.pool.threshold u.pool.floor)) ∧
      u.pool = { s.pool with
        ceiling := u.pool.ceiling, threshold := u.pool.threshold, floor := u.pool.floor
        lowCreditArmed := u.pool.lowCreditArmed } ∧
      (c = .leave → u.pool.ceiling = s.pool.ceiling) ∧ (∀ v, c = .value v → u.pool.ceiling = v) ∧
      (t = .leave → u.pool.threshold = s.pool.threshold) ∧ (∀ v, t = .value v → u.pool.threshold = v) ∧
      (f = .leave → u.pool.floor = s.pool.floor) ∧ (∀ v, f = .value v → u.pool.floor = some v)

/-- SET_HEAD, in IN_SERVICE or HALTED, writes every item it carries into the named head's record, a hold time clamped to
5 to 600 seconds, and nothing else (R18). It is refused STATE in the other states and FORMAT for a head above 5, a daily cap
out of range or an unrecognised choice (and a body of the wrong shape, log 9; without a body, log 21). -/
def Obligations.SetHeadApplied : Prop :=
  (∀ (q : Req) (head : Nat) (enabled : Choice Bool) (hold : Choice Nat) (cap : CapChoice) (s : State),
    Ready (.setHead q head enabled hold cap) q s →
    ∃ t, exec (.setHead q head enabled hold cap) s = .next t ∧
      (let taken := s.service.state = .inService ∨ s.service.state = .halted
       let formatBad := q.fits = false ∨ 5 < head ∨ enabled = .unrecognised ∨ hold = .unrecognised ∨ cap = .unrecognised ∨
         ∃ v, cap = .value v ∧ (v = 0 ∨ 9999999999 < v)
       (¬taken → PlainRefused q s t .state .none) ∧ (taken → formatBad → PlainRefused q s t .format .none) ∧
       (taken → ¬formatBad → AnsweredOk q t))) ∧
  ∀ (q : Req) (h : Head) (enabled : Choice Bool) (hold : Choice Nat) (cap : CapChoice) (s : State),
    Ready (.setHead q h.val enabled hold cap) q s →
    (s.service.state = .inService ∨ s.service.state = .halted) → q.fits = true →
    enabled ≠ .unrecognised → hold ≠ .unrecognised → cap ≠ .unrecognised →
    (∀ v, cap = .value v → 1 ≤ v ∧ v ≤ 9999999999) →
    ∃ t, exec (.setHead q h.val enabled hold cap) s = .next t ∧
      (let old := s.heads.get h
       let new := t.heads.get h
       Answered [.heads] q s t (okReply q (.headConfig new.enabled new.holdTime new.dailyCap)) ∧
       (∀ h', h' ≠ h → t.heads.get h' = s.heads.get h') ∧
       new = { old with enabled := new.enabled, holdTime := new.holdTime, dailyCap := new.dailyCap } ∧
       (enabled = .leave → new.enabled = old.enabled) ∧ (∀ v, enabled = .value v → new.enabled = v) ∧
       (hold = .leave → new.holdTime = old.holdTime) ∧
       (∀ v, hold = .value v → new.holdTime = if v < 5 then 5 else if 600 < v then 600 else v) ∧
       (cap = .leave → new.dailyCap = old.dailyCap) ∧ (cap = .absent → new.dailyCap = none) ∧
       (∀ v, cap = .value v → new.dailyCap = some v))

/-- COMMISSION, from BLANK or WITHDRAWN with no tamper level and no hard alarm standing, writes the licence, the ceiling
and the threshold, makes the business day 1 from BLANK, and moves the part to IN_SERVICE; UNLOCK moves a locked-down
part to its return state, which becomes absent (R160, R161). Each is answered by the first line of its check order that
holds: STATE, FORMAT (for COMMISSION also a body of the wrong shape, log 9), and CONDITION while the tamper level is active
or a hard alarm is pending or in service at the funding port, with the tamper level and those alarms (their order: log 20);
that STATE and FORMAT have no body is the model's choice (log 21), and so is that an UNLOCK which passes them is accepted in a
LOCKDOWN without a return state, which no run reaches (log 25). -/
def Obligations.CommissionAndUnlock : Prop :=
  (∀ (q : Req) (licence ceiling threshold : Nat) (s : State), Ready (.commission q licence ceiling threshold) q s →
    ∃ t, exec (.commission q licence ceiling threshold) s = .next t ∧
      (let refused := PlainRefused q s t
       if ¬(s.service.state = .blank ∨ s.service.state = .withdrawn) then refused .state .none
       else if q.fits = false ∨ licence = 0 ∨ 99999999 < licence ∨ ceiling = 0 ∨ 9999999999 < ceiling ∨
         9999999999 < threshold then refused .format .none
       else if ConditionStands s then
         ∃ alarms, StandingList s.notices alarms ∧ refused .condition (.condition s.service.tamperActive alarms)
       else AnsweredOk q t)) ∧
  (∀ (q : Req) (s : State), Ready (.unlock q) q s →
    ∃ t, exec (.unlock q) s = .next t ∧
      (let refused := PlainRefused q s t
       if s.service.state ≠ .lockdown then refused .state .none
       else if q.fits = false then refused .format .none
       else if ConditionStands s then
         ∃ alarms, StandingList s.notices alarms ∧ refused .condition (.condition s.service.tamperActive alarms)
       else AnsweredOk q t)) ∧
  (∀ (q : Req) (licence ceiling threshold : Nat) (s : State), Ready (.commission q licence ceiling threshold) q s →
    (s.service.state = .blank ∨ s.service.state = .withdrawn) → q.fits = true →
    1 ≤ licence → licence ≤ 99999999 → 1 ≤ ceiling → ceiling ≤ 9999999999 → threshold ≤ 9999999999 →
    s.service.tamperActive = false → (∀ n : SourceNo, n = 32 ∨ n = 33 ∨ n = 34 → ¬AlarmStands s.notices n) →
    ∃ t, exec (.commission q licence ceiling threshold) s = .next t ∧
      Answered [.pool, .service] q s t
        (okReply q (.commissioned s.service.state t.pool.day licence ceiling threshold)) ∧
      t.pool = { s.pool with
        licence := licence, ceiling := ceiling, threshold := threshold
        day := if s.service.state = .blank then 1 else s.pool.day, lowCreditArmed := t.pool.lowCreditArmed } ∧
      t.service = { s.service with state := .inService }) ∧
  (∀ (q : Req) (back : ServiceState) (s : State), Ready (.unlock q) q s →
    s.service.state = .lockdown → s.service.returnState = some back → q.fits = true →
    s.service.tamperActive = false → (∀ n : SourceNo, n = 32 ∨ n = 33 ∨ n = 34 → ¬AlarmStands s.notices n) →
    ∃ t, exec (.unlock q) s = .next t ∧ Answered [.service] q s t (okReply q (.unlocked back)) ∧
      t.service = { s.service with state := back, returnState := none })

/-- SET_RATE with fields in range, and WITHDRAW_RATE, take effect at once when the effective day is not later than the
business day, discarding a pending entry, and otherwise fill the pending slot and leave the active entry (R65, R66,
R68); the reply says which, the day of effect and what became of an earlier pending entry (R67). A SET_RATE is answered by
the first line of R64 that holds, FORMAT with the number of the line; a WITHDRAW_RATE is refused STATE and, for a class above
63, FORMAT, whose body is left open (log 29). A body of the wrong shape is FORMAT (log 9), and a STATE reply has no body (log
21). -/
def Obligations.RateChanges : Prop :=
  (∀ (q : Req) (cls e : Nat) (f : RateFields) (s : State), Ready (.setRate q cls f e) q s →
    ∃ t, exec (.setRate q cls f e) s = .next t ∧
      (let refused := PlainRefused q s t
       if ¬(s.service.state = .inService ∨ s.service.state = .halted) then refused .state .none
       else if q.fits = false then refused .format .none
       else if 63 < cls then refused .format (.formatLine 2)
       else if f.unitRate = 0 ∨ 999999 < f.unitRate then refused .format (.formatLine 3)
       else if 99999 < f.supplement then refused .format (.formatLine 4)
       else if f.rounding = .unknown then refused .format (.formatLine 5)
       else if f.minimum = 0 ∨ 9999 < f.minimum then refused .format (.formatLine 6)
       else if ∃ g, f.fallback = some g ∧ (63 < g ∨ g = cls) then refused .format (.formatLine 7)
       else AnsweredOk q t)) ∧
  (∀ (q : Req) (cls e : Nat) (s : State), Ready (.withdrawRate q cls e) q s →
    ∃ t, exec (.withdrawRate q cls e) s = .next t ∧
      (let refused := PlainRefused q s t
       if ¬(s.service.state = .inService ∨ s.service.state = .halted) then refused .state .none
       else if q.fits = false ∨ 63 < cls then ∃ body, refused .format body
       else AnsweredOk q t)) ∧
  ∀ (q : Req) (cls : ClassNo) (e : Nat) (c : Instr) (content : Option RateEntry) (s : State),
    ((c = .withdrawRate q cls.val e ∧ content = none) ∨
      (∃ u p m n fb, c = .setRate q cls.val ⟨u, p, .known m, n, fb⟩ e ∧
        1 ≤ u ∧ u ≤ 999999 ∧ p ≤ 99999 ∧ 1 ≤ n ∧ n ≤ 9999 ∧
        ((fb = none ∧ content = some ⟨u, p, m, n, none⟩) ∨
          ∃ g : ClassNo, fb = some g.val ∧ g ≠ cls ∧ content = some ⟨u, p, m, n, some g⟩))) →
    Ready c q s → (s.service.state = .inService ∨ s.service.state = .halted) → q.fits = true →
    ∃ t, exec c s = .next t ∧ (∀ k, k ≠ cls → t.rates.get k = s.rates.get k) ∧
      (e ≤ s.pool.day → t.rates.get cls = ⟨content, none⟩ ∧
        Answered [.rates] q s t (okReply q (.rateChanged cls .active s.pool.day
          (if (s.rates.get cls).waiting.isSome then .discarded else .none)))) ∧
      (s.pool.day < e → t.rates.get cls = ⟨(s.rates.get cls).active, some ⟨e, content⟩⟩ ∧
        Answered [.rates] q s t (okReply q (.rateChanged cls .pending e
          (if (s.rates.get cls).waiting.isSome then .replaced else .none))))

/-- STOCK_DEFINE makes an UNUSED entry ACTIVE, STOCK_RETIRE makes an ACTIVE entry with nothing on hand RETIRED,
STOCK_COUNT records a count and marks and raises a difference, and STOCK_CLEAR_MISMATCH clears the flag; each leaves the
four counts and every other entry alone (R93, R94, R99, R100, R101). Each is answered by the first line of its checks that
holds: STATE, FORMAT (and for a body of the wrong shape, log 9; neither has a body, log 21), ENTRY for an entry of another
state, with its state, and NOT_EMPTY with the on hand; the body of STOCK_COUNT's ENTRY is left open (log 29). -/
def Obligations.StockTableRequests : Prop :=
  (∀ (q : Req) (c : Instr) (entry n : Nat) (s : State),
    (c = .stockDefine q entry n ∨ c = .stockRetire q entry ∨ c = .stockCount q entry n ∨ c = .stockClearMismatch q entry) →
    Ready c q s →
    ∃ t, exec c s = .next t ∧
      (let refused := PlainRefused q s t
       if ¬(s.service.state = .inService ∨ s.service.state = .halted) then refused .state .none
       else if q.fits = false ∨ 31 < entry ∨ (c = .stockDefine q entry n ∧ (n = 0 ∨ 99999 < n)) ∨
         (c = .stockCount q entry n ∧ 99999999 < n) then refused .format .none
       else ∀ e : EntryNo, e.val = entry →
         (c = .stockDefine q entry n →
           if (s.stock.get e).state ≠ .unused then ReportsEntry (s.stock.get e).state (refused .entry) else AnsweredOk q t) ∧
         (c = .stockRetire q entry →
           ((∀ d, (s.stock.get e).state ≠ .active d) → ReportsEntry (s.stock.get e).state (refused .entry)) ∧
           ∀ d, (s.stock.get e).state = .active d →
             if (s.stock.get e).onHand ≠ 0 then refused .notEmpty (.entryOnHand (s.stock.get e).onHand)
             else AnsweredOk q t) ∧
         (c = .stockCount q entry n →
           if (s.stock.get e).state = .unused then ∃ body, refused .entry body else AnsweredOk q t) ∧
         (c = .stockClearMismatch q entry → AnsweredOk q t))) ∧
  ∀ (q : Req) (e : EntryNo) (s : State), (s.service.state = .inService ∨ s.service.state = .halted) → q.fits = true →
    (∀ d, Ready (.stockDefine q e.val d) q s → 1 ≤ d → d ≤ 99999 → (s.stock.get e).state = .unused →
      ∃ t, exec (.stockDefine q e.val d) s = .next t ∧ Answered [.stock] q s t (okReply q (.stockDefined e d)) ∧
        t.stock = s.stock.set e { s.stock.get e with state := .active d }) ∧
    (∀ d, Ready (.stockRetire q e.val) q s → (s.stock.get e).state = .active d → (s.stock.get e).onHand = 0 →
      ∃ t, exec (.stockRetire q e.val) s = .next t ∧
        Answered [.stock] q s t (okReply q (.stockRetired e (s.stock.get e).received (s.stock.get e).issued
          (s.stock.get e).spoiled)) ∧
        t.stock = s.stock.set e { s.stock.get e with state := .retired d }) ∧
    (∀ k, Ready (.stockCount q e.val k) q s → k ≤ 99999999 → (s.stock.get e).state ≠ .unused →
      ∃ t, exec (.stockCount q e.val k) s = .next t ∧
        Answered [.stock, .raises] q s t (okReply q (.stockCounted e k (s.stock.get e).onHand
          (decide (k = (s.stock.get e).onHand)))) ∧
        t.stock = s.stock.set e { s.stock.get e with
          lastCounted := some (k, s.pool.day)
          mismatch := (s.stock.get e).mismatch || decide (k ≠ (s.stock.get e).onHand) } ∧
        RaisesOnly [srcStockMismatch, srcLowCredit] s t ∧
        t.notices.pending.get srcStockMismatch =
          if k = (s.stock.get e).onHand then s.notices.pending.get srcStockMismatch
          else afterRaise srcStockMismatch (.stockMismatch e k (s.stock.get e).onHand s.pool.day) s) ∧
    (Ready (.stockClearMismatch q e.val) q s →
      ∃ t, exec (.stockClearMismatch q e.val) s = .next t ∧
        Answered [.stock] q s t (okReply q (.mismatchCleared e (s.stock.get e).mismatch)) ∧
        t.stock = s.stock.set e { s.stock.get e with mismatch := false })

/-- WATCH_SET from the channel's port loads a channel that is UNLOADED or STOPPED, makes the load pending on one that
counts, stops a channel, or writes its control fields alone (R131, R132, R133); WATCH_RELEASE removes the channel from
every head's holders (R141). Both are answered by the first line of R130 that holds: STATE, FORMAT for a channel above 7 (and
for a body of the wrong shape, log 9), NOT_OWNER on the other port, and for WATCH_SET FORMAT for fields that line 4 refuses.
That line 4 refuses a LOAD of a reload above 65,535, for which R130 names no line, is the model's choice (log 23), and so is
that these replies have no body (log 21). -/
def Obligations.WatchRequests : Prop :=
  (∀ (q : Req) (c : Instr) (channel : Nat) (f : ControlFields) (op : Coded WatchOp) (s : State),
    (c = .watchSet q channel f op ∨ c = .watchRelease q channel) → Ready c q s →
    ∃ t, exec c s = .next t ∧
      (let refused := PlainRefused q s t
       if ¬(s.service.state = .inService ∨ s.service.state = .halted) then refused .state .none
       else if 7 < channel ∨ q.fits = false then refused .format .none
       else if q.port ≠ (if channel < 4 then 7 else 6) then refused .notOwner .none
       else (c = .watchSet q channel f op ∧ FieldsRefused f op → refused .format .none) ∧
         (¬(c = .watchSet q channel f op ∧ FieldsRefused f op) → AnsweredOk q t))) ∧
  ∀ (q : Req) (c : ChannelNo) (s : State), (s.service.state = .inService ∨ s.service.state = .halted) → q.fits = true →
    (q.port = if c.val < 4 then 7 else 6) →
    (∀ (f : ControlFields) (g : Controls) (op : WatchOp), Ready (.watchSet q c.val f (.known op)) q s →
      Carries f g → (∀ n, op = .load n → n ≤ 65535) →
      ∃ t ap, exec (.watchSet q c.val f (.known op)) s = .next t ∧
        (let old := s.channels.get c
         let new := t.channels.get c
         let counting := old.state = .waiting ∨ old.state = .running
         Answered [.channels] q s t (okReply q (.watchSet c ⟨new.state, new.count, new.prescaleCount, new.reload,
           new.pendingReload, new.heldSource, new.heldPrescale⟩ ap)) ∧
         (∀ k, k ≠ c → t.channels.get k = s.channels.get k) ∧
         new.headMask = g.headMask ∧ new.start = g.start ∧ new.action = g.action ∧ new.inhibitMask = g.inhibitMask ∧
         (∀ n, op = .load n → ¬counting →
           new = { old with
             source := g.source, headMask := g.headMask, prescale := g.prescale, start := g.start, action := g.action
             inhibitMask := g.inhibitMask, heldSource := none, heldPrescale := none, pendingReload := none
             reload := if n = 0 then 65536 else n, count := if n = 0 then 65536 else n, prescaleCount := 0
             state := if g.start = .auto then .running else .waiting } ∧ ap = .loaded) ∧
         (counting → op ≠ .stop →
           new = { old with
             headMask := g.headMask, start := g.start, action := g.action, inhibitMask := g.inhibitMask
             pendingReload := new.pendingReload
             heldSource := if g.source = old.source then none else some g.source
             heldPrescale := if g.prescale = old.prescale then none else some g.prescale }) ∧
         (∀ n, op = .load n → counting → new.pendingReload = some (if n = 0 then 65536 else n) ∧ ap = .pending) ∧
         (op = .none → new.pendingReload = old.pendingReload ∧ ap = .none) ∧
         (op = .stop ∨ (op = .none ∧ ¬counting) →
           new = { old with
             source := g.source, headMask := g.headMask, prescale := g.prescale, start := g.start, action := g.action
             inhibitMask := g.inhibitMask, heldSource := none, heldPrescale := none
             pendingReload := new.pendingReload, state := new.state }) ∧
         (op = .stop → new.pendingReload = none ∧ ap = .stop ∧
           new.state = if old.state = .unloaded then .unloaded else .stopped) ∧
         (op = .none → new.state = old.state))) ∧
    (Ready (.watchRelease q c.val) q s →
      ∃ t, exec (.watchRelease q c.val) s = .next t ∧
        Answered [.inhibits] q s t (okReply q (.watchReleased c
          ((List.finRange 6).filter fun h => (s.heads.get h).inhibitHolders.get c))) ∧
        ∀ h k, (t.heads.get h).inhibitHolders.get k = if k = c then false else (s.heads.get h).inhibitHolders.get k)

/-! ### Notices -/

/-- NOTICE_HOLD sets the port's hold count, NOTICE_NESTING its no-nesting option, and HOLD_COUNT_END ends a hold count
of 1 (R151, R152; that HOLD_COUNT_END on its own acts at a count of 1 is the model's choice, log 7). A hold count above 255,
an option that is neither ON nor OFF, and a body of the wrong shape (log 9) are answered FORMAT (without a body: log 21). -/
def Obligations.NoticeSettings : Prop :=
  (∀ (q : Req) (n : Nat) (s : State), Ready (.noticeHold q n) q s → q.fits = true → n ≤ 255 →
    ∃ t, exec (.noticeHold q n) s = .next t ∧ Answered [.holds] q s t (okReply q (.holdCount n)) ∧
      ∀ p, (t.notices.ports.get p).holdCount = if p = q.port then n else (s.notices.ports.get p).holdCount) ∧
  (∀ (q : Req) (on : Bool) (s : State), Ready (.noticeNesting q (.known on)) q s → q.fits = true →
    ∃ t, exec (.noticeNesting q (.known on)) s = .next t ∧ Answered [.nesting] q s t (okReply q (.noticeNesting on)) ∧
      ∀ p, (t.notices.ports.get p).noNesting = if p = q.port then on else (s.notices.ports.get p).noNesting) ∧
  (∀ (p : Port) (s : State), s.resetHeld = false → (s.notices.ports.get p).holdCount = 1 →
    exec (.holdCountEnd p) s = .next { s with notices := { s.notices with
      ports := s.notices.ports.modify p fun x => { x with holdCount := 0 } } }) ∧
  (∀ (q : Req) (c : Instr) (n : Nat) (o : Coded Bool) (s : State),
    ((c = .noticeHold q n ∧ (q.fits = false ∨ 255 < n)) ∨ (c = .noticeNesting q o ∧ (q.fits = false ∨ o = .unknown))) →
    Ready c q s → ∃ t, exec c s = .next t ∧ PlainRefused q s t .format .none)

/-- NOTICE_LEVEL for a source of the sending port sets its level, 8 to 15 being taken as 7, and level 0 removes the
source from the pending set; no other source is touched (R147). LOW_CREDIT is what the low-credit evaluation that follows
makes of it (R6). A natural number above 31 or a level above 15 (and a body of the wrong shape, log 9) is answered FORMAT, and
a source of another port NOT_OWNER (without a body: log 21). -/
def Obligations.NoticeLevelApplied : Prop :=
  (∀ (q : Req) (n level : Nat) (s : State), Ready (.noticeLevel q n level) q s →
    ∃ t, exec (.noticeLevel q n level) s = .next t ∧
      (if q.fits = false ∨ 31 < n ∨ 15 < level then PlainRefused q s t .format .none
       else ∀ src : SourceNo, src.val = n →
         if sourceDest src ≠ q.port then PlainRefused q s t .notOwner .none else AnsweredOk q t)) ∧
  ∀ (q : Req) (n : Fin 32) (src : SourceNo) (level : Nat) (s : State), Ready (.noticeLevel q n.val level) q s →
    q.fits = true → level ≤ 15 → src.val = n.val → sourceDest src = q.port →
    ∃ t, exec (.noticeLevel q n.val level) s = .next t ∧
      (let applied := if 8 ≤ level then 7 else level
       Answered [.levels, .raises] q s t (okReply q (.noticeLevel n.val applied
         (decide (level = 0) && (s.notices.pending.get src).isSome))) ∧
       (∀ m, t.notices.levels.get m = if m = n then applied else s.notices.levels.get m) ∧
       (∀ m, m ≠ srcLowCredit → t.notices.pending.get m =
         if m = src ∧ level = 0 then none else s.notices.pending.get m) ∧
       t.notices.pending.get srcLowCredit = lowCreditAfter { s with notices := { s.notices with
         levels := s.notices.levels.set n applied
         pending := if level = 0 then s.notices.pending.set src none else s.notices.pending } })

/-- TAKE_NOTICE takes the eligible source of highest level, and of equal levels the one of lowest number, pushes its
level (7 under no-nesting for a lower level), and reports it; the source leaves the pending set, and a taken LOW_CREDIT
enters it again only when the low-credit evaluation that follows raises it (R6); with no eligible source the reply is NONE
and nothing is taken (R149). -/
def Obligations.TakeNoticeChooses : Prop :=
  (∀ (q : Req) (n : SourceNo) (r : Raised) (s : State), Ready (.takeNotice q) q s → q.fits = true →
    sourceDest n = q.port → s.notices.pending.get n = some r →
    stackTop (s.notices.ports.get q.port).stack < sourceLevel s.notices n →
    (∀ m, m ≠ n → sourceDest m = q.port → (s.notices.pending.get m).isSome = true →
      sourceLevel s.notices m < sourceLevel s.notices n ∨ (sourceLevel s.notices m = sourceLevel s.notices n ∧ n < m)) →
    ∃ t, exec (.takeNotice q) s = .next t ∧
      (let pushed := if (s.notices.ports.get q.port).noNesting = true ∧ sourceLevel s.notices n < 7 then 7
         else sourceLevel s.notices n
       Answered [.stack, .raises] q s t (okReply q (.notice ⟨n, sourceLevel s.notices n, pushed, r.again, r.detail,
         ((List.finRange 36).filter fun m => decide (m ≠ n ∧ sourceDest m = q.port) &&
           (s.notices.pending.get m).isSome).length, pushed⟩)) ∧
       (∀ p, (t.notices.ports.get p).stack =
         if p = q.port then pushed :: (s.notices.ports.get p).stack else (s.notices.ports.get p).stack) ∧
       (∀ m, m ≠ srcLowCredit → t.notices.pending.get m = if m = n then none else s.notices.pending.get m) ∧
       t.notices.pending.get srcLowCredit =
         lowCreditAfter { s with notices := { s.notices with pending := s.notices.pending.set n none } })) ∧
  (∀ (q : Req) (s : State), Ready (.takeNotice q) q s → q.fits = true →
    (∀ m, sourceDest m = q.port → (s.notices.pending.get m).isSome = true →
      sourceLevel s.notices m ≤ stackTop (s.notices.ports.get q.port).stack) →
    ∃ t, exec (.takeNotice q) s = .next t ∧
      Answered [] q s t ⟨.none, q.number, ⟨false, false, false, false⟩, .noNotice
        ((List.finRange 36).filter fun m => decide (sourceDest m = q.port) && (s.notices.pending.get m).isSome).length
        (stackTop (s.notices.ports.get q.port).stack)⟩ ∧
      t.notices.pending.get srcLowCredit = lowCreditAfter s)

/-- NOTICE_DONE removes the top level of the port's stack and reports it with the new top; on the funding port of a
HALTED part it returns the part to IN_SERVICE when no hard alarm is left pending or in service; with an empty stack it
is refused NOT_IN_SERVICE and nothing changes (R150, R154; that the return is evaluated after every accepted NOTICE_DONE
of the funding port is log 19, and that the NOT_IN_SERVICE reply has no body is the model's choice, log 21). -/
def Obligations.NoticeDonePops : Prop :=
  (∀ (q : Req) (l : Nat) (rest : List Nat) (s : State), Ready (.noticeDone q) q s → q.fits = true →
    (s.notices.ports.get q.port).stack = l :: rest →
    ∃ t, exec (.noticeDone q) s = .next t ∧
      Answered [.stack, .service] q s t (okReply q (.noticeDone l (rest.headD 0))) ∧
      (∀ p, (t.notices.ports.get p).stack = if p = q.port then rest else (s.notices.ports.get p).stack) ∧
      (q.port = 7 ∧ s.service.state = .halted ∧
          (∀ n : SourceNo, n = 32 ∨ n = 33 ∨ n = 34 → s.notices.pending.get n = none) ∧
          (∀ v, 9 ≤ v → v ≤ 11 → v ∉ rest) →
        t.service = { s.service with state := .inService }) ∧
      (¬(q.port = 7 ∧ s.service.state = .halted ∧
          (∀ n : SourceNo, n = 32 ∨ n = 33 ∨ n = 34 → s.notices.pending.get n = none) ∧
          (∀ v, 9 ≤ v → v ≤ 11 → v ∉ rest)) →
        t.service = s.service)) ∧
  (∀ (q : Req) (s : State), Ready (.noticeDone q) q s → q.fits = true → (s.notices.ports.get q.port).stack = [] →
    ∃ t, exec (.noticeDone q) s = .next t ∧
      Answered [] q s t ⟨.notInService, q.number, ⟨false, false, false, false⟩, .none⟩)

/-! ### Charge computation -/

/-- A lane that passes the checks of R23 is priced with the copies of its class and of its fallback class, and its lane
reserve is (Gmax + 9) divided by 10 and rounded down, plus Smax, where Gmax is the pieces at the dearer unit rate and
Smax the dearer supplement (R22, R23, R24). The lanes of a RESERVE are priced lane A first, and then lane B when the frame has
3 groups; the first refusal ends the checks and names its lane (R23, R176). The total reserve is the sum of the lane reserves
(R25). -/
def Obligations.LaneReserve : Prop :=
  (∀ (rates : Tab RateClass 64) (b : ReserveBody) (ca : ClassNo), ca.val = b.classA →
    (∀ e, priceLane rates ca b.piecesA = .error e → priceLanes rates b = .error (e, .a)) ∧
    ∀ la, priceLane rates ca b.piecesA = .ok la →
      (b.groups ≠ 3 → priceLanes rates b = .ok (la, none)) ∧
      (b.groups = 3 → ∀ cb : ClassNo, cb.val = b.classB →
        (∀ e, priceLane rates cb b.piecesB = .error e → priceLanes rates b = .error (e, .b)) ∧
        ∀ lb, priceLane rates cb b.piecesB = .ok lb → priceLanes rates b = .ok (la, some lb))) ∧
  (∀ la lb : Lane, totalReserve la none = la.reserve ∧ totalReserve la (some lb) = la.reserve + lb.reserve) ∧
  (∀ (e f : RateEntry) (p : Nat), laneReserve e none p = (p * e.unitRate + 9) / 10 + e.supplement ∧
    laneReserve e (some f) p = (p * max e.unitRate f.unitRate + 9) / 10 + max e.supplement f.supplement) ∧
  ∀ (rates : Tab RateClass 64) (cls : ClassNo) (pieces : Nat),
    ((rates.get cls).active = none → priceLane rates cls pieces = .error .unsetRate) ∧
    ∀ e, (rates.get cls).active = some e →
      (e.fallback = none →
        (pieces < e.minimum → priceLane rates cls pieces = .error .belowMin) ∧
        (e.minimum ≤ pieces → priceLane rates cls pieces =
          .ok ⟨cls, pieces, e, none, (pieces * e.unitRate + 9) / 10 + e.supplement⟩)) ∧
      (∀ f, e.fallback = some f →
        ((rates.get f).active = none → priceLane rates cls pieces = .error .unsetRate) ∧
        (∀ g, (rates.get f).active = some g → priceLane rates cls pieces =
          .ok ⟨cls, pieces, e, some g,
            (pieces * max e.unitRate g.unitRate + 9) / 10 + max e.supplement g.supplement⟩))

/-- The charge of a lane that reports `p` pieces (R26 to R29): nothing for 0 pieces; otherwise the effective entry is
the class copy, or the fallback copy when there is one and `p` is below the class copy's minimum, and G, which is `p`
times its unit rate, becomes cents as (G + 5) / 10 under HALF_UP with the residue unread, and as (G + residue) / 10
under CHOP_CARRY with the remainder as the new residue, to which the supplement is added. The lanes of an imprint are worked
in order: lane B takes the residue that lane A leaves, and the imprint charge is the sum of the lanes' charges (R30). -/
def Obligations.LaneCharge : Prop :=
  (∀ (a b : Lane) (pa pb r : Nat),
    (let wa := workLane a pa r
     let wb := workLane b pb wa.residue
     workImprint a none pa pb r = ⟨wa, none, wa.charge, wa.residue⟩ ∧
     workImprint a (some b) pa pb r = ⟨wa, some wb, wa.charge + wb.charge, wb.residue⟩)) ∧
  ∀ (l : Lane) (p r : Nat),
    (p = 0 → workLane l p r = ⟨.none, 0, r⟩) ∧
    ∀ (e : RateEntry) (name : Effective), 1 ≤ p →
      ((l.fallbackCopy = none ∧ e = l.classCopy ∧ name = .cls) ∨
        (∃ f, l.fallbackCopy = some f ∧ l.classCopy.minimum ≤ p ∧ e = l.classCopy ∧ name = .cls) ∨
        (l.fallbackCopy = some e ∧ p < l.classCopy.minimum ∧ name = .fallback)) →
      (e.rounding = .halfUp → workLane l p r = ⟨name, (p * e.unitRate + 5) / 10 + e.supplement, r⟩) ∧
      (e.rounding = .chopCarry →
        workLane l p r = ⟨name, (p * e.unitRate + r) / 10 + e.supplement, (p * e.unitRate + r) % 10⟩)

/-- The imprint charge never exceeds the total reserve of a record whose lanes hold the reserves of R24, whatever pieces
within the reserved ones are reported and whatever residue of 0 to 9 the head carries in, and the residue left is 0 to 9
again (R28, R30, R32). -/
def Obligations.ChargeWithinReserve : Prop :=
  ∀ (o : OpenImprint) (pa pb r : Nat), RecordPriced o → pa ≤ o.laneA.pieces → (∀ l, o.laneB = some l → pb ≤ l.pieces) →
    r ≤ 9 → (workImprint o.laneA o.laneB pa pb r).charge ≤ o.total ∧ (workImprint o.laneA o.laneB pa pb r).residue ≤ 9

/-! ### Movements of the imprints -/

/-- The answer to a RESERVE of head `h` at its turn is the first line of R41 that holds, and the request is accepted when
none holds. A refused RESERVE changes no record: the reply reaches the reply slot, and the port's fault record and
PORT_FAULT follow the classes of R155. The format checks are those of R42; the lanes of line 5 are priced by R23. That a
refusal for which no item is named has no body is the model's choice (log 21). -/
def Obligations.ReserveRefusalOrder : Prop :=
  ∀ (q : Req) (b : ReserveBody) (h : Head) (s : State), Ready (.reserve q b) q s → portHead q.port = some h →
    ∃ t, exec (.reserve q b) s = .next t ∧
      (let r := s.heads.get h
       let refused := MoneyRefused q (some h) s t
       let laneBad := fun (cls pieces : Nat) => 63 < cls ∨ pieces = 0 ∨ 9999 < pieces
       let formatBad := (b.groups ≠ 2 ∧ b.groups ≠ 3) ∨ (b.laneCount ≠ 1 ∧ b.laneCount ≠ 2) ∨
         (b.laneCount = 1 ∧ b.groups = 3) ∨ (b.laneCount = 2 ∧ b.groups ≠ 3) ∨
         laneBad b.classA b.piecesA ∨ (b.groups = 3 ∧ laneBad b.classB b.piecesB)
       if s.service.state ≠ .inService then refused .state .none
       else if r.enabled = false then refused .disabled .none
       else if ∃ c, r.inhibitHolders.get c = true then refused .inhibited .none
       else if formatBad then refused .format .none
       else match priceLanes s.rates b with
         | .error e => refused e.1 (.lane e.2)
         | .ok lanes =>
           let total := lanes.1.reserve + (lanes.2.map Lane.reserve).getD 0
           if 4 ≤ headOpenCount h s then refused .headLimit .none
           else if ∀ k, (s.slots.get k).isSome = true then refused .tableFull .none
           else if 512 ≤ s.audit.journal.length + s.audit.claimed then refused .journalFull .none
           else if s.pool.descending < total then refused .funds .none
           else if 99999999999 < r.ascending + r.headReserved + total then refused .ascLimit .none
           else if ∃ c, r.dailyCap = some c ∧ c < r.usedToday + r.headReserved + total then refused .dayCap .none
           else AnsweredOk q t)

/-- An accepted RESERVE moves its total reserve from descending to the reserved total and the head's head reserved,
claims one journal entry, and places the record in the lowest-numbered FREE slot with the first tag from the next
imprint tag on that no open record holds, the head's imprint number, the business day, the lanes and the head's hold
time; the near-full evaluation follows (R10, R16, R43, R44, R113). -/
def Obligations.ReserveOpensRecord : Prop :=
  ∀ (q : Req) (b : ReserveBody) (h : Head) (lanes : Lane × Option Lane) (k : SlotNo) (s : State),
    Ready (.reserve q b) q s → portHead q.port = some h → s.service.state = .inService →
    (s.heads.get h).enabled = true → (∀ c, (s.heads.get h).inhibitHolders.get c = false) →
    ((b.groups = 2 ∧ b.laneCount = 1) ∨
      (b.groups = 3 ∧ b.laneCount = 2 ∧ b.classB ≤ 63 ∧ 1 ≤ b.piecesB ∧ b.piecesB ≤ 9999)) →
    b.classA ≤ 63 → 1 ≤ b.piecesA → b.piecesA ≤ 9999 → priceLanes s.rates b = .ok lanes → headOpenCount h s < 4 →
    s.slots.get k = none → (∀ j, j < k → (s.slots.get j).isSome = true) →
    s.audit.journal.length + s.audit.claimed < 512 →
    totalReserve lanes.1 lanes.2 ≤ s.pool.descending →
    (s.heads.get h).ascending + (s.heads.get h).headReserved + totalReserve lanes.1 lanes.2 ≤ 99999999999 →
    (∀ c, (s.heads.get h).dailyCap = some c →
      (s.heads.get h).usedToday + (s.heads.get h).headReserved + totalReserve lanes.1 lanes.2 ≤ c) →
    ∃ t o, exec (.reserve q b) s = .next t ∧
      Answered [.pool, .heads, .slots, .audit, .raises] q s t (okMoneyReply q (some h) false t
        (.reserved o.tag o.imprintNumber lanes.1.reserve (lanes.2.map Lane.reserve) o.total o.holdRemaining)) ∧
      o = { tag := o.tag, head := h, imprintNumber := (s.heads.get h).imprintNumber, dayReserved := s.pool.day
            laneA := lanes.1, laneB := lanes.2, total := totalReserve lanes.1 lanes.2
            holdRemaining := (s.heads.get h).holdTime, handed := false } ∧
      (∀ j o', s.slots.get j = some o' → o'.tag ≠ o.tag) ∧
      (∃ i, o.tag = Nat.repeat tagAfter i s.pool.nextTag ∧
        ∀ i', i' < i → ∃ j o', s.slots.get j = some o' ∧ o'.tag = Nat.repeat tagAfter i' s.pool.nextTag) ∧
      t.slots = s.slots.set k (some o) ∧
      t.pool = { s.pool with
        descending := s.pool.descending - o.total, reservedTotal := s.pool.reservedTotal + o.total
        nextTag := if 65535 ≤ o.tag then 1 else o.tag + 1, lowCreditArmed := t.pool.lowCreditArmed } ∧
      t.heads = s.heads.set h { s.heads.get h with
        headReserved := (s.heads.get h).headReserved + o.total
        imprintNumber := if 999999 ≤ (s.heads.get h).imprintNumber then 1 else (s.heads.get h).imprintNumber + 1 } ∧
      t.audit = { s.audit with claimed := s.audit.claimed + 1, nearFullArmed := t.audit.nearFullArmed } ∧
      NearFullEvaluated s t ∧ RaisesOnly [srcLowCredit, srcNearFull] s t

/-- The answer to a COMMIT at its turn is the first line of R45 that holds, with the reply of R46 for its tag and the checks
of R47, and the request is accepted when none holds; a refused COMMIT changes no record, and the fault record follows
R155; that a refusal for which no item is named has no body is the model's choice (log 21). An accepted COMMIT settles the record: the remainder returns to descending, the head is charged and takes the final
residue, the pieces and the ring entry, the COMMIT entry is written through the claim, the slot becomes FREE and the
pieces are counted on the watch channels (R15, R16, R30, R48, R49, R114). -/
def Obligations.CommitSettles : Prop :=
  (∀ (q : Req) (b : CommitBody) (h : Head) (s : State), Ready (.commit q b) q s → portHead q.port = some h →
    ∃ t, exec (.commit q b) s = .next t ∧
      (let refused := MoneyRefused q (some h) s t
       if s.service.state = .blank then refused .state .none
       else if b.tag = 0 ∨ 9999 < b.piecesA ∨ (b.groups = 3 ∧ 9999 < b.piecesB) ∨ (b.groups ≠ 2 ∧ b.groups ≠ 3) then
         refused .format .none
       else
         ((∀ k o, s.slots.get k = some o → o.tag ≠ b.tag) → RefusedFromRing h b.tag s refused) ∧
         (∀ k o, Names b.tag k o s →
           if o.head ≠ h then refused .notOwner .none
           else if ¬(o.laneB.isSome = true ↔ b.groups = 3) then refused .format .none
           else if o.laneA.pieces < b.piecesA then refused .exceeds (.lane .a)
           else if ∃ l, o.laneB = some l ∧ l.pieces < b.piecesB then refused .exceeds (.lane .b)
           else AnsweredOk q t))) ∧
  (∀ (q : Req) (b : CommitBody) (h : Head) (k : SlotNo) (o : OpenImprint) (s : State),
    Ready (.commit q b) q s → portHead q.port = some h → s.service.state ≠ .blank →
    b.tag ≠ 0 → b.piecesA ≤ 9999 → ((b.groups = 2 ∧ o.laneB = none) ∨ (b.groups = 3 ∧ o.laneB.isSome = true ∧ b.piecesB ≤ 9999)) →
    s.slots.get k = some o → o.tag = b.tag → (∀ j o', j < k → s.slots.get j = some o' → o'.tag ≠ b.tag) → o.head = h →
    b.piecesA ≤ o.laneA.pieces → (∀ l, o.laneB = some l → b.piecesB ≤ l.pieces) →
    ∃ t, exec (.commit q b) s = .next t ∧
      (let old := s.heads.get h
       let new := t.heads.get h
       let w := workImprint o.laneA o.laneB b.piecesA b.piecesB old.residue
       let pieces := b.piecesA + if o.laneB.isSome then b.piecesB else 0
       let wrap := 99999999 < old.pieceCounter + pieces
       Answered [.pool, .heads, .inhibits, .slots, .audit, .channels, .raises] q s t
         (okMoneyReply q (some h) (decide wrap) t (.committed o.tag o.imprintNumber
           ⟨b.piecesA, w.laneA.effective, w.laneA.charge⟩
           (w.laneB.map fun l => ⟨b.piecesB, l.effective, l.charge⟩) w.charge (o.total - w.charge) w.residue)) ∧
       t.pool = { s.pool with
         descending := s.pool.descending + (o.total - w.charge), reservedTotal := s.pool.reservedTotal - o.total
         movementSequence := (s.pool.movementSequence + 1) % 4294967296, lowCreditArmed := t.pool.lowCreditArmed } ∧
       t.slots = s.slots.set k none ∧
       (∀ h', h' ≠ h → { t.heads.get h' with inhibitHolders := (s.heads.get h').inhibitHolders } = s.heads.get h') ∧
       new = { old with
         inhibitHolders := new.inhibitHolders
         headReserved := old.headReserved - o.total, ascending := old.ascending + w.charge
         usedToday := old.usedToday + w.charge, residue := w.residue
         pieceCounter := if wrap then old.pieceCounter + pieces - 100000000 else old.pieceCounter + pieces
         wrapCount := if wrap then min (old.wrapCount + 1) 255 else old.wrapCount
         ring := ((o.tag, ClosureKind.committed) :: old.ring.filter fun e => decide (e.1 ≠ o.tag)).take 4 } ∧
       t.audit.journal = s.audit.journal ++ [{
         sequence := s.pool.movementSequence, kind := .commit, day := s.pool.day, port := headPort h
         head := some h, tag := some o.tag, pieces := some pieces, amount := w.charge
         returnedRemainder := some (o.total - w.charge), residueAfter := some w.residue
         descendingAfter := s.pool.descending + (o.total - w.charge) }] ∧
       t.audit = { s.audit with
         journal := t.audit.journal, claimed := s.audit.claimed - 1
         accumulators := { s.audit.accumulators with
           heads := s.audit.accumulators.heads.modify h fun d => { d with
             piecesSettled := min (d.piecesSettled + pieces) 4294967295, valueSettled := d.valueSettled + w.charge
             expiries := min d.expiries 65535 } } } ∧
       Counted (.pieces h o.tag) pieces s t ∧ RaisesOnly (watchSources [srcLowCredit]) s t))

/-- The answer to a CANCEL at its turn is STATE in BLANK, FORMAT for a tag of 0 or a body of the wrong shape (log 9), the
reply of R46 for a tag that is not its own open record's, and otherwise OK; a refused CANCEL changes no record, and the
fault record follows R155; that a refusal for which no item is named has no body is the model's choice (log 21). An accepted CANCEL returns the whole reserve to descending, releases the claim, places the tag in the ring as
CANCELLED and frees the slot; it writes no entry, counts no pieces and leaves the head's other fields alone, and the
near-full evaluation follows (R16, R50, R113). -/
def Obligations.CancelReturnsReserve : Prop :=
  (∀ (q : Req) (tag : Nat) (h : Head) (s : State), Ready (.cancel q tag) q s → portHead q.port = some h →
    ∃ t, exec (.cancel q tag) s = .next t ∧
      (let refused := MoneyRefused q (some h) s t
       if s.service.state = .blank then refused .state .none
       else if q.fits = false ∨ tag = 0 then refused .format .none
       else
         ((∀ k o, s.slots.get k = some o → o.tag ≠ tag) → RefusedFromRing h tag s refused) ∧
         (∀ k o, Names tag k o s → if o.head ≠ h then refused .notOwner .none else AnsweredOk q t))) ∧
  (∀ (q : Req) (tag : Nat) (h : Head) (k : SlotNo) (o : OpenImprint) (s : State),
    Ready (.cancel q tag) q s → portHead q.port = some h → s.service.state ≠ .blank → q.fits = true → tag ≠ 0 →
    s.slots.get k = some o → o.tag = tag → (∀ j o', j < k → s.slots.get j = some o' → o'.tag ≠ tag) → o.head = h →
    ∃ t, exec (.cancel q tag) s = .next t ∧
      Answered [.pool, .heads, .slots, .audit, .raises] q s t (okMoneyReply q (some h) false t
        (.cancelled tag o.imprintNumber o.total)) ∧
      t.pool = { s.pool with
        descending := s.pool.descending + o.total, reservedTotal := s.pool.reservedTotal - o.total
        lowCreditArmed := t.pool.lowCreditArmed } ∧
      t.slots = s.slots.set k none ∧
      t.heads = s.heads.set h { s.heads.get h with
        headReserved := (s.heads.get h).headReserved - o.total
        ring := ((tag, ClosureKind.cancelled) :: (s.heads.get h).ring.filter fun e => decide (e.1 ≠ tag)).take 4 } ∧
      t.audit = { s.audit with claimed := s.audit.claimed - 1, nearFullArmed := t.audit.nearFullArmed } ∧
      NearFullEvaluated s t ∧ RaisesOnly [srcLowCredit, srcNearFull] s t)

/-! ### Credit in and out -/

/-- The answer to a REFILL at its turn is the first line of R77 that holds, and the request is accepted when none holds. A
refused REFILL changes no record: the reply reaches the reply slot, and the port's fault record and PORT_FAULT follow the
classes of R155. A DUPLICATE reply carries the amount, the day and descending after of the newest entry of the refill log
and says whether the amounts are the SAME (R78). A body of the wrong shape fails line 2 (log 9), and the headroom of R79 is
what the limit leaves. That a refusal for which no item is named has no body is the model's choice (log 21). -/
def Obligations.RefillRefusalOrder : Prop :=
  ∀ (q : Req) (serial amount licence : Nat) (s : State), Ready (.refill q serial amount licence) q s →
    ∃ t, exec (.refill q serial amount licence) s = .next t ∧
      (let p := s.pool
       let refused := MoneyRefused q (portHead q.port) s t
       if s.service.state = .blank then refused .state .none
       else if q.fits = false ∨ serial = 0 ∨ 4294967295 < serial ∨ amount = 0 ∨ 999999999 < amount ∨ licence = 0 ∨
         99999999 < licence then refused .format .none
       else if serial = p.lastVoucher then
         ∃ body, refused .duplicate body ∧ ∀ e, s.audit.refillLog.getLast? = some e →
           body = .duplicate e.amount e.day e.descendingAfter (decide (e.amount = amount))
       else if serial ≠ p.lastVoucher + 1 then
         refused .sequence (.expected (if p.lastVoucher = 4294967295 then none else some (p.lastVoucher + 1)))
       else if licence ≠ p.licence then refused .licence .none
       else if s.service.state ≠ .inService then refused .state .none
       else if p.ceiling < p.descending + p.reservedTotal + amount then
         refused .ceiling (.headroom .pool (p.ceiling - (p.descending + p.reservedTotal)))
       else if 999999999999999 < p.fundedTotal + amount then
         refused .ceiling (.headroom .funded (999999999999999 - p.fundedTotal))
       else if 512 ≤ s.audit.journal.length + s.audit.claimed then refused .journalFull .none
       else AnsweredOk q t)

/-- An accepted REFILL raises descending and the funded total by its amount, sets the last voucher serial, writes the
REFILL entry and the refill-log entry, counts one refill on the watch channels and raises REFILL_ACCEPTED; the near-full
evaluation follows the entry (R80, R81, R82, R83, R113). -/
def Obligations.RefillAccepted : Prop :=
  ∀ (q : Req) (serial amount licence : Nat) (s : State), Ready (.refill q serial amount licence) q s →
    s.service.state = .inService → q.fits = true → serial ≤ 4294967295 → 1 ≤ amount → amount ≤ 999999999 →
    1 ≤ licence → licence ≤ 99999999 → serial = s.pool.lastVoucher + 1 → licence = s.pool.licence →
    s.pool.descending + s.pool.reservedTotal + amount ≤ s.pool.ceiling → s.pool.fundedTotal + amount ≤ 999999999999999 →
    s.audit.journal.length + s.audit.claimed < 512 →
    ∃ t, exec (.refill q serial amount licence) s = .next t ∧
      Answered [.pool, .inhibits, .audit, .channels, .raises] q s t (okMoneyReply q (portHead q.port) false t
        (.refilled serial amount (s.pool.descending + amount) (s.pool.fundedTotal + amount))) ∧
      t.pool = { s.pool with
        descending := s.pool.descending + amount, fundedTotal := s.pool.fundedTotal + amount, lastVoucher := serial
        movementSequence := (s.pool.movementSequence + 1) % 4294967296, lowCreditArmed := t.pool.lowCreditArmed } ∧
      t.audit = { s.audit with
        journal := s.audit.journal ++ [{
          sequence := s.pool.movementSequence, kind := .refill, day := s.pool.day, port := 7, head := none, tag := none
          pieces := none, amount := amount, returnedRemainder := none, residueAfter := none
          descendingAfter := s.pool.descending + amount }]
        accumulators := { s.audit.accumulators with
          refillCount := s.audit.accumulators.refillCount + 1
          refillValue := s.audit.accumulators.refillValue + amount }
        refillLog := (s.audit.refillLog ++ [(⟨serial, amount, s.pool.day, s.pool.descending + amount⟩ : RefillEntry)]).drop
          (s.audit.refillLog.length + 1 - 32)
        nearFullArmed := t.audit.nearFullArmed } ∧
      NearFullEvaluated s t ∧ Counted (.refill serial) 1 s t ∧
      RaisesOnly (watchSources [srcLowCredit, srcNearFull, srcRefillAccepted]) s t ∧
      t.notices.pending.get srcRefillAccepted =
        afterRaise srcRefillAccepted (.refillAccepted serial amount (s.pool.descending + amount)) s

/-- An accepted RETURN_CREDIT moves its amount from descending to the returned total and writes a RETURN entry; an
accepted DECOMMISSION does so with the whole of descending and moves the part to WITHDRAWN (R85, R87); the near-full
evaluation follows the entry (R113). Each is answered by the first line of its check order that holds: for RETURN_CREDIT
STATE, FORMAT (and for a body of the wrong shape, log 9), JOURNAL_FULL and FUNDS with descending, for DECOMMISSION STATE,
FORMAT, OPEN_IMPRINTS with the number of OPEN slots and JOURNAL_FULL (R85, R86); that the others have no body is the model's
choice (log 21). -/
def Obligations.CreditReturned : Prop :=
  (∀ (q : Req) (amount : Nat) (s : State), Ready (.returnCredit q amount) q s →
    ∃ t, exec (.returnCredit q amount) s = .next t ∧
      (let refused := MoneyRefused q (portHead q.port) s t
       if s.service.state ≠ .inService then refused .state .none
       else if q.fits = false ∨ amount = 0 ∨ 9999999999 < amount then refused .format .none
       else if 512 ≤ s.audit.journal.length + s.audit.claimed then refused .journalFull .none
       else if s.pool.descending < amount then refused .funds (.descendingFound s.pool.descending)
       else AnsweredOk q t)) ∧
  (∀ (q : Req) (s : State), Ready (.decommission q) q s →
    ∃ t, exec (.decommission q) s = .next t ∧
      (let refused := MoneyRefused q (portHead q.port) s t
       if s.service.state ≠ .inService then refused .state .none
       else if q.fits = false then refused .format .none
       else if ∃ k, (s.slots.get k).isSome = true then
         refused .openImprints (.openSlots ((List.finRange 16).filter fun k => (s.slots.get k).isSome).length)
       else if 512 ≤ s.audit.journal.length + s.audit.claimed then refused .journalFull .none
       else AnsweredOk q t)) ∧
  ∀ (q : Req) (c : Instr) (amount : Nat) (s : State),
    ((c = .returnCredit q amount ∧ 1 ≤ amount ∧ amount ≤ 9999999999 ∧ amount ≤ s.pool.descending) ∨
      (c = .decommission q ∧ amount = s.pool.descending ∧ ∀ k, s.slots.get k = none)) →
    Ready c q s → s.service.state = .inService → q.fits = true → s.audit.journal.length + s.audit.claimed < 512 →
    ∃ t body, exec c s = .next t ∧
      Answered [.pool, .audit, .service, .raises] q s t (okMoneyReply q (portHead q.port) false t body) ∧
      t.pool = { s.pool with
        descending := s.pool.descending - amount, returnedTotal := s.pool.returnedTotal + amount
        movementSequence := (s.pool.movementSequence + 1) % 4294967296, lowCreditArmed := t.pool.lowCreditArmed } ∧
      t.audit = { s.audit with
        journal := s.audit.journal ++ [{
          sequence := s.pool.movementSequence, kind := .returned, day := s.pool.day, port := 7, head := none, tag := none
          pieces := none, amount := amount, returnedRemainder := none, residueAfter := none
          descendingAfter := s.pool.descending - amount }]
        nearFullArmed := t.audit.nearFullArmed } ∧
      NearFullEvaluated s t ∧ RaisesOnly [srcLowCredit, srcNearFull] s t ∧
      (c = .returnCredit q amount → t.service = s.service ∧
        body = .returned amount (s.pool.descending - amount) (s.pool.returnedTotal + amount)) ∧
      (c = .decommission q → t.service = { s.service with state := .withdrawn } ∧
        body = .decommissioned amount (s.pool.returnedTotal + amount))

/-! ### Stamps -/

/-- An accepted STOCK_RECEIVE of `n` stamps pays their value out of descending into the stock purchase total, raises the
entry's received and on hand by `n` and the purchase value today by the value, and writes a STOCK_RECEIVE entry (R95,
R96). An accepted STOCK_ISSUE or STOCK_SPOIL of `n` stamps moves them from on hand to issued or to spoiled, adds them to
the day's total, and writes an entry of their face value; no money of the pool moves (R97, R98). The near-full evaluation
follows each entry (R113). Each is answered by the first line of its check order that holds: a receive STATE, FORMAT, ENTRY
with the entry's state, STOCK_LIMIT with its received, JOURNAL_FULL, FUNDS with the value and descending, and FLOOR with the
floor too when the value would carry descending below a present floor (R7, R95); an issue or a spoil STATE, FORMAT, ENTRY
(its body left open, log 29), SHORT with the on hand, and JOURNAL_FULL (R97). A body of the wrong shape is FORMAT (log 9);
that STATE, FORMAT and JOURNAL_FULL have no body is the model's choice (log 21). -/
def Obligations.StockMovements : Prop :=
  (∀ (q : Req) (entry n : Nat) (s : State), Ready (.stockReceive q entry n) q s →
    ∃ t, exec (.stockReceive q entry n) s = .next t ∧
      (let refused := MoneyRefused q (portHead q.port) s t
       if s.service.state ≠ .inService then refused .state .none
       else if q.fits = false ∨ 31 < entry ∨ n = 0 ∨ 99999999 < n then refused .format .none
       else ∀ e : EntryNo, e.val = entry →
         ((∀ d, (s.stock.get e).state ≠ .active d) → ReportsEntry (s.stock.get e).state (refused .entry)) ∧
         ∀ d, (s.stock.get e).state = .active d →
           if 99999999 < (s.stock.get e).received + n then refused .stockLimit (.entryReceived (s.stock.get e).received)
           else if 512 ≤ s.audit.journal.length + s.audit.claimed then refused .journalFull .none
           else if s.pool.descending < n * d then refused .funds (.stockFunds (n * d) s.pool.descending)
           else
             (∀ f, s.pool.floor = some f → s.pool.descending < n * d + f →
               refused .floor (.stockFloor (n * d) s.pool.descending f)) ∧
             ((∀ f, s.pool.floor = some f → n * d + f ≤ s.pool.descending) → AnsweredOk q t))) ∧
  (∀ (q : Req) (c : Instr) (entry n : Nat) (s : State), (c = .stockIssue q entry n ∨ c = .stockSpoil q entry n) →
    Ready c q s →
    ∃ t, exec c s = .next t ∧
      (let refused := PlainRefused q s t
       if ¬(s.service.state = .inService ∨ s.service.state = .halted) then refused .state .none
       else if q.fits = false ∨ 31 < entry ∨ n = 0 ∨ 99999999 < n then refused .format .none
       else ∀ e : EntryNo, e.val = entry →
         ((∀ d, (s.stock.get e).state ≠ .active d) → ∃ body, refused .entry body) ∧
         ∀ d, (s.stock.get e).state = .active d →
           if (s.stock.get e).onHand < n then refused .short (.entryOnHand (s.stock.get e).onHand)
           else if 512 ≤ s.audit.journal.length + s.audit.claimed then refused .journalFull .none
           else AnsweredOk q t)) ∧
  (∀ (q : Req) (e : EntryNo) (n d : Nat) (s : State), Ready (.stockReceive q e.val n) q s →
    s.service.state = .inService → q.fits = true → 1 ≤ n → n ≤ 99999999 → (s.stock.get e).state = .active d →
    (s.stock.get e).received + n ≤ 99999999 → s.audit.journal.length + s.audit.claimed < 512 →
    n * d ≤ s.pool.descending → (∀ f, s.pool.floor = some f → f ≤ s.pool.descending - n * d) →
    ∃ t, exec (.stockReceive q e.val n) s = .next t ∧
      Answered [.pool, .stock, .stockDay, .audit, .raises] q s t (okMoneyReply q (portHead q.port) false t
        (.stockReceived e n (n * d) ((s.stock.get e).onHand + n) ((s.stock.get e).received + n)
          (s.pool.descending - n * d))) ∧
      t.pool = { s.pool with
        descending := s.pool.descending - n * d, stockPurchaseTotal := s.pool.stockPurchaseTotal + n * d
        movementSequence := (s.pool.movementSequence + 1) % 4294967296, lowCreditArmed := t.pool.lowCreditArmed } ∧
      t.stock = s.stock.set e { s.stock.get e with
        received := (s.stock.get e).received + n, onHand := (s.stock.get e).onHand + n } ∧
      t.stockDay = { s.stockDay with purchaseValue := s.stockDay.purchaseValue + n * d } ∧
      t.audit = { s.audit with
        journal := s.audit.journal ++ [{
          sequence := s.pool.movementSequence, kind := .stockReceive, day := s.pool.day, port := 6, head := none
          tag := none, pieces := some n, amount := n * d, returnedRemainder := none, residueAfter := none
          descendingAfter := s.pool.descending - n * d }]
        nearFullArmed := t.audit.nearFullArmed } ∧
      NearFullEvaluated s t ∧ RaisesOnly [srcLowCredit, srcNearFull] s t) ∧
  (∀ (issue : Bool) (q : Req) (e : EntryNo) (n d : Nat) (c : Instr) (s : State),
    c = (if issue then .stockIssue q e.val n else .stockSpoil q e.val n) → Ready c q s →
    (s.service.state = .inService ∨ s.service.state = .halted) → q.fits = true → 1 ≤ n → n ≤ 99999999 →
    (s.stock.get e).state = .active d → n ≤ (s.stock.get e).onHand → s.audit.journal.length + s.audit.claimed < 512 →
    ∃ t, exec c s = .next t ∧
      (let old := s.stock.get e
       let new := t.stock.get e
       Answered [.pool, .stock, .stockDay, .audit, .raises] q s t (okReply q
         (.stockMoved e n new.onHand (if issue then new.issued else new.spoiled))) ∧
       t.pool = { s.pool with
         movementSequence := (s.pool.movementSequence + 1) % 4294967296, lowCreditArmed := t.pool.lowCreditArmed } ∧
       (∀ k, k ≠ e → t.stock.get k = s.stock.get k) ∧
       new = { old with
         onHand := old.onHand - n
         issued := if issue then old.issued + n else old.issued
         spoiled := if issue then old.spoiled else old.spoiled + n } ∧
       t.stockDay = { s.stockDay with
         stampsIssued := if issue then s.stockDay.stampsIssued + n else s.stockDay.stampsIssued
         stampsSpoiled := if issue then s.stockDay.stampsSpoiled else s.stockDay.stampsSpoiled + n } ∧
       t.audit = { s.audit with
         journal := s.audit.journal ++ [{
           sequence := s.pool.movementSequence, kind := if issue then .stockIssue else .stockSpoil, day := s.pool.day
           port := 6, head := none, tag := none, pieces := some n, amount := n * d, returnedRemainder := none
           residueAfter := none, descendingAfter := s.pool.descending }]
         nearFullArmed := t.audit.nearFullArmed } ∧
       NearFullEvaluated s t ∧ RaisesOnly [srcLowCredit, srcNearFull] s t))

/-! ### The journal and the days -/

/-- A JOURNAL_ACK of at most 512 and at most the unacknowledged count removes that many entries from the oldest end and
reports the counts and the oldest sequence after it; an ack of more than the unacknowledged count is refused COUNT and
removes nothing, and one above 512 (and a body of the wrong shape, log 9) is refused FORMAT (R111; without a body, log 21); the
near-full evaluation follows an ack that removes an entry, and no other. The near-full evaluation raises JOURNAL_NEAR_FULL once when free is below 32 while armed, arms
again at 64 or more, and otherwise changes nothing (R113). The oldest sequence is the movement sequence less the
unacknowledged count, modulo 2^32 (R107). -/
def Obligations.JournalAckAndNearFull : Prop :=
  ((∀ (q : Req) (n : Nat) (s : State), Ready (.journalAck q n) q s → q.fits = true → n ≤ 512 → n ≤ s.audit.journal.length →
    ∃ t, exec (.journalAck q n) s = .next t ∧
      Answered [.audit, .raises] q s t (okReply q (.acknowledged n (s.audit.journal.length - n) s.audit.claimed
        (512 - (s.audit.journal.length - n) - s.audit.claimed) (oldestSequence t))) ∧
      t.audit = { s.audit with journal := s.audit.journal.drop n, nearFullArmed := t.audit.nearFullArmed } ∧
      (1 ≤ n → NearFullEvaluated s t) ∧ (n = 0 → t.audit = s.audit ∧ RaisesOnly [srcLowCredit] s t) ∧
      RaisesOnly [srcLowCredit, srcNearFull] s t) ∧
  (∀ (q : Req) (n : Nat) (s : State), Ready (.journalAck q n) q s → q.fits = true → n ≤ 512 → s.audit.journal.length < n →
    ∃ t, exec (.journalAck q n) s = .next t ∧
      Answered [] q s t ⟨.count, q.number, ⟨false, false, false, false⟩, .unacknowledged s.audit.journal.length⟩) ∧
  (∀ (q : Req) (n : Nat) (s : State), Ready (.journalAck q n) q s → (q.fits = false ∨ 512 < n) →
    ∃ t, exec (.journalAck q n) s = .next t ∧ PlainRefused q s t .format .none)) ∧
  (∀ s : State, s.audit.journal.length ≤ 512 → oldestSequence s < 4294967296 ∧
    (oldestSequence s + s.audit.journal.length) % 4294967296 = s.pool.movementSequence % 4294967296) ∧
  (∀ s : State,
    (let free := 512 - s.audit.journal.length - s.audit.claimed
     (free < 32 → s.audit.nearFullArmed = true →
       (evaluateNearFull s).audit = { s.audit with nearFullArmed := false } ∧
       (evaluateNearFull s).notices.pending.get srcNearFull =
         afterRaise srcNearFull (.nearFull free s.audit.journal.length s.audit.claimed) s) ∧
     (64 ≤ free → evaluateNearFull s = { s with audit := { s.audit with nearFullArmed := true } }) ∧
     (free < 64 → (32 ≤ free ∨ s.audit.nearFullArmed = false) → evaluateNearFull s = s)))

/-- An accepted DAY_CLOSE writes the summary of the day and the DAY_CLOSE entry, clears used today, the accumulators and
the stock day totals, raises the business day by one, applies every pending entry that has fallen due, counts a day on
the watch channels, and raises TARIFF_APPLIED when an entry was applied; the near-full evaluation follows the entry (R70,
R71, R113, R120, R121, R127). A DAY_CLOSE is answered by the first line of R118 that holds: STATE, FORMAT for a body that
does not carry one day or for day 0, WRONG_DAY for any day but the current one, so that no day is closed twice (R119),
LAST_DAY on day 4,294,967,295, each of these two with the current day, and JOURNAL_FULL; that the others have no body is the
model's choice (log 21). -/
def Obligations.DayCloseAccepted : Prop :=
  (∀ (q : Req) (day : Nat) (s : State), Ready (.dayClose q day) q s →
    ∃ t, exec (.dayClose q day) s = .next t ∧
      (let refused := PlainRefused q s t
       if ¬(s.service.state = .inService ∨ s.service.state = .halted) then refused .state .none
       else if q.fits = false ∨ day = 0 then refused .format .none
       else if day ≠ s.pool.day then refused .wrongDay (.currentDay s.pool.day)
       else if s.pool.day = 4294967295 then refused .lastDay (.currentDay s.pool.day)
       else if 512 ≤ s.audit.journal.length + s.audit.claimed then refused .journalFull .none
       else AnsweredOk q t)) ∧
  ∀ (q : Req) (s : State), Ready (.dayClose q s.pool.day) q s →
    (s.service.state = .inService ∨ s.service.state = .halted) → q.fits = true → s.pool.day ≠ 0 →
    s.pool.day ≠ 4294967295 → s.audit.journal.length + s.audit.claimed < 512 →
    ∃ t applied, exec (.dayClose q s.pool.day) s = .next t ∧
      Answered [.pool, .heads, .inhibits, .rates, .stockDay, .audit, .channels, .raises] q s t (okReply q
        (.dayClosed s.pool.day (s.pool.day + 1) s.pool.movementSequence applied.length (openCount s)
          ((List.finRange 8).filter fun c => decide ((s.channels.get c).state = .running) &&
            decide ((s.channels.get c).source = .days) && decide ((s.channels.get c).count ≤ 1 ∧
              ((s.channels.get c).prescale = .one ∨ 99 ≤ (s.channels.get c).prescaleCount))).length)) ∧
      t.pool = { s.pool with
        day := s.pool.day + 1, movementSequence := (s.pool.movementSequence + 1) % 4294967296
        lowCreditArmed := t.pool.lowCreditArmed } ∧
      (∀ h, { t.heads.get h with inhibitHolders := (s.heads.get h).inhibitHolders } =
        { s.heads.get h with usedToday := 0 }) ∧
      t.stockDay = ⟨0, 0, 0⟩ ∧
      (∀ c e, (s.rates.get c).waiting = some e → e.effective ≤ s.pool.day + 1 → t.rates.get c = ⟨e.content, none⟩) ∧
      (∀ c, (∀ e, (s.rates.get c).waiting = some e → s.pool.day + 1 < e.effective) → t.rates.get c = s.rates.get c) ∧
      (∀ c kind, (c, kind) ∈ applied ↔ ∃ e, (s.rates.get c).waiting = some e ∧ e.effective ≤ s.pool.day + 1 ∧
        kind = if e.content.isSome then .replacement else .withdrawal) ∧
      (applied.map Prod.fst).Pairwise (· < ·) ∧
      t.audit = { s.audit with
        journal := s.audit.journal ++ [{
          sequence := s.pool.movementSequence, kind := .dayClose, day := s.pool.day, port := 6, head := none, tag := none
          pieces := none, amount := 0, returnedRemainder := none, residueAfter := none
          descendingAfter := s.pool.descending }]
        accumulators := ⟨Tab.fill 6 ⟨0, 0, 0⟩, 0, 0⟩
        dayLog := (({ figures := { day := s.pool.day, accumulators := s.audit.accumulators, stock := s.stockDay
                                   descending := s.pool.descending, reservedTotal := s.pool.reservedTotal
                                   openImprints := openCount s }
                      closeSequence := s.pool.movementSequence, applied := applied } : DaySummary) :: s.audit.dayLog).take 16
        nearFullArmed := t.audit.nearFullArmed } ∧
      NearFullEvaluated s t ∧ Counted (.day (s.pool.day + 1)) 1 s t ∧
      RaisesOnly (watchSources [srcLowCredit, srcNearFull, srcTariffApplied]) s t ∧
      t.notices.pending.get srcTariffApplied =
        if applied = [] then s.notices.pending.get srcTariffApplied
        else afterRaise srcTariffApplied (.tariffApplied applied.length (s.pool.day + 1)) s

/-! ### The watch channels -/

/-- What the events of one movement do to a channel (R129, R135, R136, R137): an UNLOADED or STOPPED channel ignores
them; the first starts a WAITING channel and is not counted; a RUNNING channel's count falls by one for each event under
prescale 1 and for each hundred under prescale 100, as long as it does not reach zero; the event that brings it to zero
does what WATCH_CHANNEL_ZERO does on its own (log 6); events that are not of its source, which for PIECES counts the heads
of the head mask alone, leave it alone. The events are
taken one after another, and nothing else of the state changes. -/
def Obligations.WatchCounting : Prop :=
  ∀ (c : ChannelNo) (ev : SourceEvent) (n : Nat) (s : State),
    (let ch := s.channels.get c
     (∀ m, receiveEvents c ev (m + n) s = receiveEvents c ev n (receiveEvents c ev m s)) ∧
     (¬EventFor ch ev → receiveEvents c ev n s = s) ∧
     (ch.state = .unloaded ∨ ch.state = .stopped → receiveEvents c ev n s = s) ∧
     (EventFor ch ev → ch.state = .waiting →
       receiveEvents c ev (n + 1) s = receiveEvents c ev n (setChannel c { ch with state := .running } s)) ∧
     (EventFor ch ev → ch.state = .running → ch.prescale = .one → n < ch.count →
       receiveEvents c ev n s = setChannel c { ch with count := ch.count - n } s) ∧
     (EventFor ch ev → ch.state = .running → ch.prescale = .hundred → ch.prescaleCount ≤ 99 →
       (ch.prescaleCount + n) / 100 < ch.count →
       receiveEvents c ev n s = setChannel c { ch with
         count := ch.count - (ch.prescaleCount + n) / 100, prescaleCount := (ch.prescaleCount + n) % 100 } s) ∧
     (EventFor ch ev → ch.state = .running → ch.count = 1 → (ch.prescale = .one ∨ ch.prescaleCount = 99) →
       s.resetHeld = false → exec (.watchChannelZero c ev) s = .next (receiveEvents c ev 1 s)))

/-- WATCH_CHANNEL_ZERO with the counted event that brings a RUNNING channel to zero (R138, R139, R140; that the table's
event commanded on its own is this last event is the model's choice, log 6, and that the detail's source is the event's
is logged as 14): the count is reloaded, the held settings take effect, WATCH_ZERO is raised under NOTICE, and every
head of the inhibit mask is held under INHIBIT, HEAD_INHIBITED being raised for a head that no channel held. -/
def Obligations.WatchZeroActs : Prop :=
  ∀ (c : ChannelNo) (ev : SourceEvent) (s : State), s.resetHeld = false → (s.channels.get c).state = .running →
    EventFor (s.channels.get c) ev → (s.channels.get c).count = 1 →
    ((s.channels.get c).prescale = .one ∨ (s.channels.get c).prescaleCount = 99) →
    ∃ t, exec (.watchChannelZero c ev) s = .next t ∧
      (let ch := s.channels.get c
       let reload := ch.pendingReload.getD ch.reload
       let notice := ch.action = .notice ∨ ch.action = .noticeInhibit
       let inhibits := fun (h : Head) =>
         (ch.action = .inhibit ∨ ch.action = .noticeInhibit) ∧ ch.inhibitMask.get h = true
       t.channels = s.channels.set c { ch with
         reload := reload, pendingReload := none, count := reload, source := ch.heldSource.getD ch.source
         heldSource := none, prescale := ch.heldPrescale.getD ch.prescale, heldPrescale := none, prescaleCount := 0 } ∧
       t = { s with channels := t.channels, heads := t.heads, notices := { s.notices with pending := t.notices.pending } } ∧
       (notice → t.notices.pending.get (srcWatchZero c) = afterRaise (srcWatchZero c) (.watchZero c reload ev) s) ∧
       (¬notice → t.notices.pending.get (srcWatchZero c) = s.notices.pending.get (srcWatchZero c)) ∧
       (∀ h, inhibits h →
         t.heads.get h = { s.heads.get h with inhibitHolders := (s.heads.get h).inhibitHolders.set c true } ∧
         t.notices.pending.get (srcHeadInhibited h) =
           if ∀ k, (s.heads.get h).inhibitHolders.get k = false then afterRaise (srcHeadInhibited h) (.headInhibited c) s
           else s.notices.pending.get (srcHeadInhibited h)) ∧
       (∀ h, ¬inhibits h → t.heads.get h = s.heads.get h ∧
         t.notices.pending.get (srcHeadInhibited h) = s.notices.pending.get (srcHeadInhibited h)) ∧
       RaisesOnly (srcWatchZero c :: (List.finRange 6).map srcHeadInhibited) s t)

/-! ### Holds, monitors and reset -/

/-- A second of the time base lowers every hold remaining above 0 by one, or returns a LOST time base to PRESENT without
counting (R51, R164); HOLD_FALLS_DUE hands the expiry of the first slot whose hold stands at 0 (R52, log 8). -/
def Obligations.HoldsCountDown : Prop :=
  ∀ s : State, s.resetHeld = false →
    (s.service.timeBaseLost = false → ∃ t, exec .timeBaseSecond s = .next t ∧ t = { s with slots := t.slots } ∧
      ∀ k, t.slots.get k = (s.slots.get k).map fun o => { o with holdRemaining := o.holdRemaining - 1 }) ∧
    (s.service.timeBaseLost = true →
      exec .timeBaseSecond s = .next { s with service := { s.service with timeBaseLost := false } }) ∧
    (∀ k o, s.slots.get k = some o → o.holdRemaining = 0 → o.handed = false →
      (∀ j o', j < k → s.slots.get j = some o' → o'.holdRemaining = 0 → o'.handed = true) →
      exec (.holdFallsDue k) s = .next { s with slots := s.slots.set k (some { o with handed := true }) })

/-- The engine takes a handed expiry at its place in the rotation and settles the record as a forfeit of its whole
reserve: descending stays, the head is charged the total reserve and the reserved pieces, the residue is carried as if
the whole batch had printed, the EXPIRY_CHARGE entry is written through the claim, the pieces are counted and
IMPRINT_EXPIRED is raised (R33, R53, R174). The search then stands at the expiries while one is left, and goes on with a
port up to the last-served one when one waits there (R174, log 4). -/
def Obligations.HoldExpiryForfeits : Prop :=
  ∀ (k : SlotNo) (o : OpenImprint) (s : State), s.resetHeld = false → nextTurn s = some (.expiry k) →
    s.slots.get k = some o →
    ∃ t, exec (.holdExpiry k) s = .next t ∧
      (let h := o.head
       let old := s.heads.get h
       let new := t.heads.get h
       let pieces := forfeitPieces o
       t = { s with
         pool := t.pool, heads := t.heads, slots := s.slots.set k none, audit := t.audit, channels := t.channels
         notices := { s.notices with pending := t.notices.pending }, search := t.search } ∧
       ((∃ j o', j ≠ k ∧ s.slots.get j = some o' ∧ o'.handed = true) → t.search = .atExpiries) ∧
       ((∀ j o', j ≠ k → s.slots.get j = some o' → o'.handed = false) →
         t.search = if ∃ p, p ≤ s.lastServed ∧ (s.links.get p).slot.isSome = true then .pastExpiries else .fresh) ∧
       t.pool = { s.pool with
         reservedTotal := s.pool.reservedTotal - o.total
         movementSequence := (s.pool.movementSequence + 1) % 4294967296 } ∧
       (∀ h', h' ≠ h → { t.heads.get h' with inhibitHolders := (s.heads.get h').inhibitHolders } = s.heads.get h') ∧
       { new with inhibitHolders := old.inhibitHolders } = forfeitedHead .expired o old ∧
       t.audit = { s.audit with
         journal := s.audit.journal ++ [{
           sequence := s.pool.movementSequence, kind := .expiryCharge, day := s.pool.day, port := headPort h
           head := some h, tag := some o.tag, pieces := some pieces, amount := o.total, returnedRemainder := some 0
           residueAfter := some (forfeitedHead .expired o old).residue, descendingAfter := s.pool.descending }]
         claimed := s.audit.claimed - 1
         accumulators := { s.audit.accumulators with
           heads := s.audit.accumulators.heads.modify h fun d => { d with
             piecesSettled := min (d.piecesSettled + pieces) 4294967295, valueSettled := d.valueSettled + o.total
             expiries := min (d.expiries + 1) 65535 } } } ∧
       Counted (.pieces h o.tag) pieces s t ∧
       RaisesOnly (watchSources [srcImprintExpired h]) s t ∧
       t.notices.pending.get (srcImprintExpired h) =
         afterRaise (srcImprintExpired h) (.imprintExpired o.tag o.imprintNumber) s)

/-- The monitors (R153, R162, R163, R164): the tamper input's passing to active, the supply's fall and the time base's
loss each set their level, raise their hard alarm with the business day and the state as its detail, and change the
service state by the table of R153; nothing else changes. -/
def Obligations.MonitorsRaiseAlarms : Prop :=
  ∀ (c : Instr) (n : SourceNo) (v : Service) (s : State), s.resetHeld = false →
    ((c = .tamperInputActive ∧ n = 32 ∧ s.service.tamperActive = false ∧ v = { s.service with tamperActive := true }) ∨
      (c = .supplyLowInput ∧ n = 33 ∧ s.service.supplyLow = false ∧ v = { s.service with supplyLow := true }) ∨
      (c = .timeBaseTimeout ∧ n = 34 ∧ s.service.timeBaseLost = false ∧ v = { s.service with timeBaseLost := true })) →
    ∃ (t : State) (lock : Bool), exec c s = .next t ∧ (lock = true ↔ n = 32 ∨ Conflict s.notices n) ∧
      t = { s with
        service := alarmTable lock v
        notices := { s.notices with pending := s.notices.pending.set n (some (match s.notices.pending.get n with
          | none => ⟨0, .alarm s.pool.day s.service.state⟩
          | some r => ⟨min (r.again + 1) 255, .alarm s.pool.day s.service.state⟩)) } }

/-- The tamper input's passing to inactive and the supply's return to adequate change their level alone and raise
nothing (R162, R163); the assertion of the reset input makes the links ignore select from then on (R169), and that it
changes nothing else, so that the notice state and the attention lines keep their values until RESTART, is the model's
choice (log 28). -/
def Obligations.InputsReturn : Prop :=
  ∀ s : State,
    (s.resetHeld = false →
      exec .tamperInputInactive s = .next { s with service := { s.service with tamperActive := false } } ∧
      exec .supplyAdequateInput s = .next { s with service := { s.service with supplyLow := false } }) ∧
    exec .resetAsserted s = .next { s with resetHeld := true } ∧
    ∀ p selector frame extent t,
      (exec (.status p selector) { s with resetHeld := true } = .next t ∨
        exec (.send p frame) { s with resetHeld := true } = .next t ∨
        exec (.read p extent) { s with resetHeld := true } = .next t) →
      t = { s with resetHeld := true, links := s.links.modify p fun l => { l with out := none } }

/-- RESTART (R54, R113, R114, R144, R155, R158, R166, R167): every OPEN record, in slot order, is closed by a charge of its
whole reserve, with its RESTART_CHARGE entry written through its claim, its ring entry, the residue carried, and its
pieces counted; descending and the other records are kept; the port contexts, the notice levels, stacks and holds and
the arbiter take their reset values; near-full armed becomes yes and is evaluated once; HALTED becomes IN_SERVICE; the
time base is PRESENT; and the tamper and supply inputs are sampled, TAMPER locking a part that is IN_SERVICE or
WITHDRAWN and a low supply halting one that is IN_SERVICE, each alarm raised into the fresh notice state. That the
inputs are operands of the command is the model's choice (log 28). -/
def Obligations.RestartSteps : Prop :=
  ∀ (tamper low : Bool) (s : State), ∃ t, exec (.restart tamper low) s = .next t ∧
    (let os := openRecords s
     let free := 512 - t.audit.journal.length - t.audit.claimed
     let v : Service := { s.service with
       state := if s.service.state = .halted then .inService else s.service.state
       tamperActive := tamper, supplyLow := low, timeBaseLost := false }
     let v' := if tamper then alarmTable true v else v
     (∀ k, t.slots.get k = none) ∧
     t.pool = { s.pool with
       reservedTotal := s.pool.reservedTotal - s.slots.sum reserveOf
       movementSequence := sequenceAfter os.length s.pool.movementSequence } ∧
     (∀ h, { t.heads.get h with inhibitHolders := (s.heads.get h).inhibitHolders } =
       restartedHead h os (s.heads.get h)) ∧
     (∀ h, (t.heads.get h).ascending = (s.heads.get h).ascending + s.slots.sum (reserveOfHead h) ∧
       (t.heads.get h).usedToday = (s.heads.get h).usedToday + s.slots.sum (reserveOfHead h) ∧
       (t.heads.get h).headReserved = (s.heads.get h).headReserved - s.slots.sum (reserveOfHead h)) ∧
     t.rates = s.rates ∧ t.stock = s.stock ∧ t.stockDay = s.stockDay ∧
     t.audit = { s.audit with
       journal := t.audit.journal, claimed := s.audit.claimed - openCount s, nearFullArmed := decide (32 ≤ free)
       accumulators := { s.audit.accumulators with heads := t.audit.accumulators.heads } } ∧
     (∀ h, t.audit.accumulators.heads.get h = restartedDay h os (s.audit.accumulators.heads.get h)) ∧
     (∃ charges : List JournalEntry, t.audit.journal = s.audit.journal ++ charges ∧ charges.length = openCount s ∧
       ∀ (i : Nat) (o : OpenImprint), os[i]? = some o → charges[i]? = some {
         sequence := sequenceAfter i s.pool.movementSequence, kind := .restartCharge, day := s.pool.day
         port := headPort o.head, head := some o.head, tag := some o.tag, pieces := some (forfeitPieces o)
         amount := o.total, returnedRemainder := some 0
         residueAfter := some (restartedHead o.head (os.take (i + 1)) (s.heads.get o.head)).residue
         descendingAfter := s.pool.descending }) ∧
     CountedAll (os.map fun o => (.pieces o.head o.tag, forfeitPieces o)) { s with notices := resetNotices } t ∧
     t.notices.pending.get srcNearFull =
       (if free < 32 then some ⟨0, .nearFull free t.audit.journal.length t.audit.claimed⟩ else none) ∧
     t.notices.pending.get srcTamper = (if tamper then some ⟨0, .alarm s.pool.day v.state⟩ else none) ∧
     t.notices.pending.get srcRetentionFault = (if low then some ⟨0, .alarm s.pool.day v'.state⟩ else none) ∧
     (∀ n, n ∉ watchSources [srcNearFull, srcTamper, srcRetentionFault] → t.notices.pending.get n = none) ∧
     t.links = Tab.fill 8 ⟨none, none, false, ⟨false, none, none, true, true, true, true⟩, none⟩ ∧
     t.lastServed = 7 ∧ t.search = .fresh ∧ t.resetHeld = false ∧ t.pending = s.pending ∧
     t.notices.ports = Tab.fill 8 ⟨[], 0, false⟩ ∧
     (∀ n : Fin 32, t.notices.levels.get n =
       if 8 ≤ n.val ∧ n.val ≤ 13 then 5 else if 24 ≤ n.val then 3 else 2) ∧
     t.service = if tamper then v' else if low then alarmTable false v else v)

/-- COLD_START (R1, R13, R37, R61, R89, R91, R104, R128, R144, R155, R158, R168, R174): every record takes its
cold-start value, the part is BLANK, the tamper and supply levels are as sampled, and of all sources TAMPER alone is
pending when the tamper input is active and RETENTION_FAULT alone when the supply is low. State.reset is such a state
with both inputs quiet (the model's choice, log 1). -/
def Obligations.ColdStartValues : Prop :=
  (∀ (tamper low : Bool) (s : State), ∃ t, exec (.coldStart tamper low) s = .next t ∧
    ColdRecords t ∧
    t.service = ⟨.blank, none, tamper, low, false⟩ ∧
    t.links = Tab.fill 8 ⟨none, none, false, ⟨false, none, none, true, true, true, true⟩, none⟩ ∧
    t.lastServed = 7 ∧ t.search = .fresh ∧ t.resetHeld = false ∧ t.pending = s.pending ∧
    t.notices.ports = Tab.fill 8 ⟨[], 0, false⟩ ∧
    (∀ n : Fin 32, t.notices.levels.get n =
      if 8 ≤ n.val ∧ n.val ≤ 13 then 5 else if 24 ≤ n.val then 3 else 2) ∧
    (∀ n, t.notices.pending.get n =
      if (n = 32 ∧ tamper = true) ∨ (n = 33 ∧ low = true) then some ⟨0, .alarm 0 .blank⟩ else none)) ∧
  exec (.coldStart false false) State.reset = .next State.reset

/-! ### Encoding -/

/-- The frames of RESERVE and COMMIT are read back whole (R172, R176): a well-formed body of 2 or 3 groups, written with
its padding, passes the length check of the link, carries its code and request number, and is read back as the same
body. -/
def Obligations.FramesReadBack : Prop :=
  (∀ (number : Byte) (b : ReserveBody), b.wellFormed = true → (b.groups = 2 ∨ b.groups = 3) →
    lengthFits (reserveFrame number b) = true ∧ byteAt (reserveFrame number b) 1 = 16 ∧
    (reserveFrame number b).getD 2 0 = number ∧ parseReserve (reserveFrame number b) = b) ∧
  (∀ (number : Byte) (b : CommitBody), b.wellFormed = true → (b.groups = 2 ∨ b.groups = 3) →
    lengthFits (commitFrame number b) = true ∧ byteAt (commitFrame number b) 1 = 17 ∧
    (commitFrame number b).getD 2 0 = number ∧ parseCommit (commitFrame number b) = b)

/-! ### Invariants that every step keeps -/

/-- Every step keeps the balance of R4 with the sums of R2 and R14, the priced records of R24 and the residues of R13.
-/
def Obligations.CreditConserved : Prop :=
  ∀ s t : State, CreditKept s → step s = .next t → CreditKept t

/-- Every step keeps descending plus the reserved total within the ceiling (R5), the credit conserved, and a part out of
service, BLANK, WITHDRAWN or locked down out of WITHDRAWN, without credit and without an open record (R37, R56, R87, R168). -/
def Obligations.CeilingHeld : Prop :=
  ∀ s t : State, CeilingKept s → step s = .next t → CeilingKept t

/-- Every step keeps the ranges of the pool and of the heads (R1, R13, R14), with the ceiling, the licence number and the
business day at least 1 outside BLANK and 0 in it, the ceiling and the conserved credit, at most 9,999 pieces a lane and at
most 600 seconds of hold remaining in every open record (R38), and each head's value settled equal to its used today
(R114). -/
def Obligations.RangesHeld : Prop :=
  ∀ s t : State, RangesKept s → step s = .next t → RangesKept t

/-- Every step keeps claimed equal to the number of OPEN records, the journal within its room, and its sequence numbers
without gaps (R104, R107, R108). -/
def Obligations.JournalHeld : Prop :=
  ∀ s t : State, JournalKept s → step s = .next t → JournalKept t

/-- Every step keeps the refill log's serials strictly increasing and its newest serial the last voucher serial (R81).
-/
def Obligations.RefillLogHeld : Prop :=
  ∀ s t : State, RefillLogKept s → step s = .next t → RefillLogKept t

/-- Every step keeps the tags of the open records distinct and within 1 to 65,535 (R10, R38), and the open records of each
head at four at the most (R39). -/
def Obligations.TagsHeld : Prop :=
  ∀ s t : State, TagsKept s → step s = .next t → TagsKept t

/-- Every step keeps every stock entry's received equal to its on hand plus issued plus spoiled, and its counts, its
denomination and its last counted within their ranges, an UNUSED entry at its cold-start values (R89, R90, R93). -/
def Obligations.StockHeld : Prop :=
  ∀ s t : State, StockKept s → step s = .next t → StockKept t

/-- Every step keeps every pending rate entry's effective day later than the business day (R63), and every record of a BLANK
part at its cold-start value (R11, R37, R61, R89, R104, R128, R168). -/
def Obligations.PendingEntriesHeld : Prop :=
  ∀ s t : State, PendingEntriesKept s → step s = .next t → PendingEntriesKept t

/-- Every step keeps the watch channels within their ranges, a count of 0 marking an UNLOADED channel alone (R128,
R129). -/
def Obligations.ChannelsHeld : Prop :=
  ∀ s t : State, ChannelsKept s → step s = .next t → ChannelsKept t

/-- Every step keeps the notice unit: stacks strictly increase from bottom to top, levels, hold counts and again-counts
keep their ranges, and a disabled source is not pending (R144, R146, R147). -/
def Obligations.NoticesHeld : Prop :=
  ∀ s t : State, NoticesKept s.notices → step s = .next t → NoticesKept t.notices

/-- Every step keeps the service state: the return state is present in LOCKDOWN alone (R158), and the part is HALTED
only while a hard alarm is pending or in service (R154). -/
def Obligations.HaltedHeld : Prop :=
  ∀ s t : State, HaltedKept s → step s = .next t → HaltedKept t

/-- Every step keeps REPLY_READY and BUSY apart on every port (R170), and the sticky flag with the fault code (R155). -/
def Obligations.LinksHeld : Prop :=
  ∀ s t : State, LinksKept s → step s = .next t → LinksKept t

/-- The state right after reset meets every one of these invariants. -/
def Obligations.ResetMeetsInvariants : Prop :=
  RangesKept State.reset ∧ JournalKept State.reset ∧ RefillLogKept State.reset ∧ TagsKept State.reset ∧
    StockKept State.reset ∧ PendingEntriesKept State.reset ∧ ChannelsKept State.reset ∧
    NoticesKept State.reset.notices ∧ HaltedKept State.reset ∧ LinksKept State.reset
end

