-- ==== Sys2Proof/Laws/State.lean ====
section
/-! SUPPORT. What every update of one record leaves in every field of the state: one lemma per field per update. -/

namespace Sys2Proof.Machine

variable (s : State)

@[simp] theorem modPool_pool (f : Pool → Pool) : (modPool f s).pool = f s.pool := rfl
@[simp] theorem modPool_heads (f : Pool → Pool) : (modPool f s).heads = s.heads := rfl
@[simp] theorem modPool_slots (f : Pool → Pool) : (modPool f s).slots = s.slots := rfl
@[simp] theorem modPool_rates (f : Pool → Pool) : (modPool f s).rates = s.rates := rfl
@[simp] theorem modPool_stock (f : Pool → Pool) : (modPool f s).stock = s.stock := rfl
@[simp] theorem modPool_stockDay (f : Pool → Pool) : (modPool f s).stockDay = s.stockDay := rfl
@[simp] theorem modPool_audit (f : Pool → Pool) : (modPool f s).audit = s.audit := rfl
@[simp] theorem modPool_channels (f : Pool → Pool) : (modPool f s).channels = s.channels := rfl
@[simp] theorem modPool_notices (f : Pool → Pool) : (modPool f s).notices = s.notices := rfl
@[simp] theorem modPool_service (f : Pool → Pool) : (modPool f s).service = s.service := rfl
@[simp] theorem modPool_links (f : Pool → Pool) : (modPool f s).links = s.links := rfl
@[simp] theorem modPool_lastServed (f : Pool → Pool) : (modPool f s).lastServed = s.lastServed := rfl
@[simp] theorem modPool_search (f : Pool → Pool) : (modPool f s).search = s.search := rfl
@[simp] theorem modPool_resetHeld (f : Pool → Pool) : (modPool f s).resetHeld = s.resetHeld := rfl
@[simp] theorem modPool_pending (f : Pool → Pool) : (modPool f s).pending = s.pending := rfl

@[simp] theorem modHead_pool (h : Head) (f : HeadRecord → HeadRecord) : (modHead h f s).pool = s.pool := rfl
@[simp] theorem modHead_heads (h : Head) (f : HeadRecord → HeadRecord) :
    (modHead h f s).heads = s.heads.modify h f := rfl
@[simp] theorem modHead_slots (h : Head) (f : HeadRecord → HeadRecord) : (modHead h f s).slots = s.slots := rfl
@[simp] theorem modHead_rates (h : Head) (f : HeadRecord → HeadRecord) : (modHead h f s).rates = s.rates := rfl
@[simp] theorem modHead_stock (h : Head) (f : HeadRecord → HeadRecord) : (modHead h f s).stock = s.stock := rfl
@[simp] theorem modHead_stockDay (h : Head) (f : HeadRecord → HeadRecord) :
    (modHead h f s).stockDay = s.stockDay := rfl
@[simp] theorem modHead_audit (h : Head) (f : HeadRecord → HeadRecord) : (modHead h f s).audit = s.audit := rfl
@[simp] theorem modHead_channels (h : Head) (f : HeadRecord → HeadRecord) :
    (modHead h f s).channels = s.channels := rfl
@[simp] theorem modHead_notices (h : Head) (f : HeadRecord → HeadRecord) : (modHead h f s).notices = s.notices := rfl
@[simp] theorem modHead_service (h : Head) (f : HeadRecord → HeadRecord) : (modHead h f s).service = s.service := rfl
@[simp] theorem modHead_links (h : Head) (f : HeadRecord → HeadRecord) : (modHead h f s).links = s.links := rfl
@[simp] theorem modHead_lastServed (h : Head) (f : HeadRecord → HeadRecord) :
    (modHead h f s).lastServed = s.lastServed := rfl
@[simp] theorem modHead_search (h : Head) (f : HeadRecord → HeadRecord) :
    (modHead h f s).search = s.search := rfl
@[simp] theorem modHead_resetHeld (h : Head) (f : HeadRecord → HeadRecord) :
    (modHead h f s).resetHeld = s.resetHeld := rfl
@[simp] theorem modHead_pending (h : Head) (f : HeadRecord → HeadRecord) : (modHead h f s).pending = s.pending := rfl

@[simp] theorem setSlot_pool (k : SlotNo) (o : Option OpenImprint) : (setSlot k o s).pool = s.pool := rfl
@[simp] theorem setSlot_heads (k : SlotNo) (o : Option OpenImprint) : (setSlot k o s).heads = s.heads := rfl
@[simp] theorem setSlot_slots (k : SlotNo) (o : Option OpenImprint) : (setSlot k o s).slots = s.slots.set k o := rfl
@[simp] theorem setSlot_rates (k : SlotNo) (o : Option OpenImprint) : (setSlot k o s).rates = s.rates := rfl
@[simp] theorem setSlot_stock (k : SlotNo) (o : Option OpenImprint) : (setSlot k o s).stock = s.stock := rfl
@[simp] theorem setSlot_stockDay (k : SlotNo) (o : Option OpenImprint) : (setSlot k o s).stockDay = s.stockDay := rfl
@[simp] theorem setSlot_audit (k : SlotNo) (o : Option OpenImprint) : (setSlot k o s).audit = s.audit := rfl
@[simp] theorem setSlot_channels (k : SlotNo) (o : Option OpenImprint) : (setSlot k o s).channels = s.channels := rfl
@[simp] theorem setSlot_notices (k : SlotNo) (o : Option OpenImprint) : (setSlot k o s).notices = s.notices := rfl
@[simp] theorem setSlot_service (k : SlotNo) (o : Option OpenImprint) : (setSlot k o s).service = s.service := rfl
@[simp] theorem setSlot_links (k : SlotNo) (o : Option OpenImprint) : (setSlot k o s).links = s.links := rfl
@[simp] theorem setSlot_lastServed (k : SlotNo) (o : Option OpenImprint) :
    (setSlot k o s).lastServed = s.lastServed := rfl
@[simp] theorem setSlot_search (k : SlotNo) (o : Option OpenImprint) :
    (setSlot k o s).search = s.search := rfl
@[simp] theorem setSlot_resetHeld (k : SlotNo) (o : Option OpenImprint) :
    (setSlot k o s).resetHeld = s.resetHeld := rfl
@[simp] theorem setSlot_pending (k : SlotNo) (o : Option OpenImprint) : (setSlot k o s).pending = s.pending := rfl

@[simp] theorem modRate_pool (c : ClassNo) (f : RateClass → RateClass) : (modRate c f s).pool = s.pool := rfl
@[simp] theorem modRate_heads (c : ClassNo) (f : RateClass → RateClass) : (modRate c f s).heads = s.heads := rfl
@[simp] theorem modRate_slots (c : ClassNo) (f : RateClass → RateClass) : (modRate c f s).slots = s.slots := rfl
@[simp] theorem modRate_rates (c : ClassNo) (f : RateClass → RateClass) :
    (modRate c f s).rates = s.rates.modify c f := rfl
@[simp] theorem modRate_stock (c : ClassNo) (f : RateClass → RateClass) : (modRate c f s).stock = s.stock := rfl
@[simp] theorem modRate_stockDay (c : ClassNo) (f : RateClass → RateClass) :
    (modRate c f s).stockDay = s.stockDay := rfl
@[simp] theorem modRate_audit (c : ClassNo) (f : RateClass → RateClass) : (modRate c f s).audit = s.audit := rfl
@[simp] theorem modRate_channels (c : ClassNo) (f : RateClass → RateClass) :
    (modRate c f s).channels = s.channels := rfl
@[simp] theorem modRate_notices (c : ClassNo) (f : RateClass → RateClass) : (modRate c f s).notices = s.notices := rfl
@[simp] theorem modRate_service (c : ClassNo) (f : RateClass → RateClass) : (modRate c f s).service = s.service := rfl
@[simp] theorem modRate_links (c : ClassNo) (f : RateClass → RateClass) : (modRate c f s).links = s.links := rfl
@[simp] theorem modRate_lastServed (c : ClassNo) (f : RateClass → RateClass) :
    (modRate c f s).lastServed = s.lastServed := rfl
@[simp] theorem modRate_search (c : ClassNo) (f : RateClass → RateClass) :
    (modRate c f s).search = s.search := rfl
@[simp] theorem modRate_resetHeld (c : ClassNo) (f : RateClass → RateClass) :
    (modRate c f s).resetHeld = s.resetHeld := rfl
@[simp] theorem modRate_pending (c : ClassNo) (f : RateClass → RateClass) : (modRate c f s).pending = s.pending := rfl

@[simp] theorem modStock_pool (e : EntryNo) (f : StockEntry → StockEntry) : (modStock e f s).pool = s.pool := rfl
@[simp] theorem modStock_heads (e : EntryNo) (f : StockEntry → StockEntry) : (modStock e f s).heads = s.heads := rfl
@[simp] theorem modStock_slots (e : EntryNo) (f : StockEntry → StockEntry) : (modStock e f s).slots = s.slots := rfl
@[simp] theorem modStock_rates (e : EntryNo) (f : StockEntry → StockEntry) : (modStock e f s).rates = s.rates := rfl
@[simp] theorem modStock_stock (e : EntryNo) (f : StockEntry → StockEntry) :
    (modStock e f s).stock = s.stock.modify e f := rfl
@[simp] theorem modStock_stockDay (e : EntryNo) (f : StockEntry → StockEntry) :
    (modStock e f s).stockDay = s.stockDay := rfl
@[simp] theorem modStock_audit (e : EntryNo) (f : StockEntry → StockEntry) : (modStock e f s).audit = s.audit := rfl
@[simp] theorem modStock_channels (e : EntryNo) (f : StockEntry → StockEntry) :
    (modStock e f s).channels = s.channels := rfl
@[simp] theorem modStock_notices (e : EntryNo) (f : StockEntry → StockEntry) :
    (modStock e f s).notices = s.notices := rfl
@[simp] theorem modStock_service (e : EntryNo) (f : StockEntry → StockEntry) :
    (modStock e f s).service = s.service := rfl
@[simp] theorem modStock_links (e : EntryNo) (f : StockEntry → StockEntry) : (modStock e f s).links = s.links := rfl
@[simp] theorem modStock_lastServed (e : EntryNo) (f : StockEntry → StockEntry) :
    (modStock e f s).lastServed = s.lastServed := rfl
@[simp] theorem modStock_search (e : EntryNo) (f : StockEntry → StockEntry) :
    (modStock e f s).search = s.search := rfl
@[simp] theorem modStock_resetHeld (e : EntryNo) (f : StockEntry → StockEntry) :
    (modStock e f s).resetHeld = s.resetHeld := rfl
@[simp] theorem modStock_pending (e : EntryNo) (f : StockEntry → StockEntry) :
    (modStock e f s).pending = s.pending := rfl

@[simp] theorem modStockDay_pool (f : StockDay → StockDay) : (modStockDay f s).pool = s.pool := rfl
@[simp] theorem modStockDay_heads (f : StockDay → StockDay) : (modStockDay f s).heads = s.heads := rfl
@[simp] theorem modStockDay_slots (f : StockDay → StockDay) : (modStockDay f s).slots = s.slots := rfl
@[simp] theorem modStockDay_rates (f : StockDay → StockDay) : (modStockDay f s).rates = s.rates := rfl
@[simp] theorem modStockDay_stock (f : StockDay → StockDay) : (modStockDay f s).stock = s.stock := rfl
@[simp] theorem modStockDay_stockDay (f : StockDay → StockDay) : (modStockDay f s).stockDay = f s.stockDay := rfl
@[simp] theorem modStockDay_audit (f : StockDay → StockDay) : (modStockDay f s).audit = s.audit := rfl
@[simp] theorem modStockDay_channels (f : StockDay → StockDay) : (modStockDay f s).channels = s.channels := rfl
@[simp] theorem modStockDay_notices (f : StockDay → StockDay) : (modStockDay f s).notices = s.notices := rfl
@[simp] theorem modStockDay_service (f : StockDay → StockDay) : (modStockDay f s).service = s.service := rfl
@[simp] theorem modStockDay_links (f : StockDay → StockDay) : (modStockDay f s).links = s.links := rfl
@[simp] theorem modStockDay_lastServed (f : StockDay → StockDay) : (modStockDay f s).lastServed = s.lastServed := rfl
@[simp] theorem modStockDay_search (f : StockDay → StockDay) : (modStockDay f s).search = s.search := rfl
@[simp] theorem modStockDay_resetHeld (f : StockDay → StockDay) : (modStockDay f s).resetHeld = s.resetHeld := rfl
@[simp] theorem modStockDay_pending (f : StockDay → StockDay) : (modStockDay f s).pending = s.pending := rfl

@[simp] theorem modAudit_pool (f : Audit → Audit) : (modAudit f s).pool = s.pool := rfl
@[simp] theorem modAudit_heads (f : Audit → Audit) : (modAudit f s).heads = s.heads := rfl
@[simp] theorem modAudit_slots (f : Audit → Audit) : (modAudit f s).slots = s.slots := rfl
@[simp] theorem modAudit_rates (f : Audit → Audit) : (modAudit f s).rates = s.rates := rfl
@[simp] theorem modAudit_stock (f : Audit → Audit) : (modAudit f s).stock = s.stock := rfl
@[simp] theorem modAudit_stockDay (f : Audit → Audit) : (modAudit f s).stockDay = s.stockDay := rfl
@[simp] theorem modAudit_audit (f : Audit → Audit) : (modAudit f s).audit = f s.audit := rfl
@[simp] theorem modAudit_channels (f : Audit → Audit) : (modAudit f s).channels = s.channels := rfl
@[simp] theorem modAudit_notices (f : Audit → Audit) : (modAudit f s).notices = s.notices := rfl
@[simp] theorem modAudit_service (f : Audit → Audit) : (modAudit f s).service = s.service := rfl
@[simp] theorem modAudit_links (f : Audit → Audit) : (modAudit f s).links = s.links := rfl
@[simp] theorem modAudit_lastServed (f : Audit → Audit) : (modAudit f s).lastServed = s.lastServed := rfl
@[simp] theorem modAudit_search (f : Audit → Audit) : (modAudit f s).search = s.search := rfl
@[simp] theorem modAudit_resetHeld (f : Audit → Audit) : (modAudit f s).resetHeld = s.resetHeld := rfl
@[simp] theorem modAudit_pending (f : Audit → Audit) : (modAudit f s).pending = s.pending := rfl

@[simp] theorem setChannel_pool (c : ChannelNo) (ch : Channel) : (setChannel c ch s).pool = s.pool := rfl
@[simp] theorem setChannel_heads (c : ChannelNo) (ch : Channel) : (setChannel c ch s).heads = s.heads := rfl
@[simp] theorem setChannel_slots (c : ChannelNo) (ch : Channel) : (setChannel c ch s).slots = s.slots := rfl
@[simp] theorem setChannel_rates (c : ChannelNo) (ch : Channel) : (setChannel c ch s).rates = s.rates := rfl
@[simp] theorem setChannel_stock (c : ChannelNo) (ch : Channel) : (setChannel c ch s).stock = s.stock := rfl
@[simp] theorem setChannel_stockDay (c : ChannelNo) (ch : Channel) : (setChannel c ch s).stockDay = s.stockDay := rfl
@[simp] theorem setChannel_audit (c : ChannelNo) (ch : Channel) : (setChannel c ch s).audit = s.audit := rfl
@[simp] theorem setChannel_channels (c : ChannelNo) (ch : Channel) :
    (setChannel c ch s).channels = s.channels.set c ch := rfl
@[simp] theorem setChannel_notices (c : ChannelNo) (ch : Channel) : (setChannel c ch s).notices = s.notices := rfl
@[simp] theorem setChannel_service (c : ChannelNo) (ch : Channel) : (setChannel c ch s).service = s.service := rfl
@[simp] theorem setChannel_links (c : ChannelNo) (ch : Channel) : (setChannel c ch s).links = s.links := rfl
@[simp] theorem setChannel_lastServed (c : ChannelNo) (ch : Channel) :
    (setChannel c ch s).lastServed = s.lastServed := rfl
@[simp] theorem setChannel_search (c : ChannelNo) (ch : Channel) :
    (setChannel c ch s).search = s.search := rfl
@[simp] theorem setChannel_resetHeld (c : ChannelNo) (ch : Channel) :
    (setChannel c ch s).resetHeld = s.resetHeld := rfl
@[simp] theorem setChannel_pending (c : ChannelNo) (ch : Channel) : (setChannel c ch s).pending = s.pending := rfl

@[simp] theorem modNotices_pool (f : NoticeUnit → NoticeUnit) : (modNotices f s).pool = s.pool := rfl
@[simp] theorem modNotices_heads (f : NoticeUnit → NoticeUnit) : (modNotices f s).heads = s.heads := rfl
@[simp] theorem modNotices_slots (f : NoticeUnit → NoticeUnit) : (modNotices f s).slots = s.slots := rfl
@[simp] theorem modNotices_rates (f : NoticeUnit → NoticeUnit) : (modNotices f s).rates = s.rates := rfl
@[simp] theorem modNotices_stock (f : NoticeUnit → NoticeUnit) : (modNotices f s).stock = s.stock := rfl
@[simp] theorem modNotices_stockDay (f : NoticeUnit → NoticeUnit) : (modNotices f s).stockDay = s.stockDay := rfl
@[simp] theorem modNotices_audit (f : NoticeUnit → NoticeUnit) : (modNotices f s).audit = s.audit := rfl
@[simp] theorem modNotices_channels (f : NoticeUnit → NoticeUnit) : (modNotices f s).channels = s.channels := rfl
@[simp] theorem modNotices_notices (f : NoticeUnit → NoticeUnit) : (modNotices f s).notices = f s.notices := rfl
@[simp] theorem modNotices_service (f : NoticeUnit → NoticeUnit) : (modNotices f s).service = s.service := rfl
@[simp] theorem modNotices_links (f : NoticeUnit → NoticeUnit) : (modNotices f s).links = s.links := rfl
@[simp] theorem modNotices_lastServed (f : NoticeUnit → NoticeUnit) :
    (modNotices f s).lastServed = s.lastServed := rfl
@[simp] theorem modNotices_search (f : NoticeUnit → NoticeUnit) :
    (modNotices f s).search = s.search := rfl
@[simp] theorem modNotices_resetHeld (f : NoticeUnit → NoticeUnit) : (modNotices f s).resetHeld = s.resetHeld := rfl
@[simp] theorem modNotices_pending (f : NoticeUnit → NoticeUnit) : (modNotices f s).pending = s.pending := rfl

@[simp] theorem modNoticePort_pool (p : Port) (f : NoticePort → NoticePort) :
    (modNoticePort p f s).pool = s.pool := rfl
@[simp] theorem modNoticePort_heads (p : Port) (f : NoticePort → NoticePort) :
    (modNoticePort p f s).heads = s.heads := rfl
@[simp] theorem modNoticePort_slots (p : Port) (f : NoticePort → NoticePort) :
    (modNoticePort p f s).slots = s.slots := rfl
@[simp] theorem modNoticePort_rates (p : Port) (f : NoticePort → NoticePort) :
    (modNoticePort p f s).rates = s.rates := rfl
@[simp] theorem modNoticePort_stock (p : Port) (f : NoticePort → NoticePort) :
    (modNoticePort p f s).stock = s.stock := rfl
@[simp] theorem modNoticePort_stockDay (p : Port) (f : NoticePort → NoticePort) :
    (modNoticePort p f s).stockDay = s.stockDay := rfl
@[simp] theorem modNoticePort_audit (p : Port) (f : NoticePort → NoticePort) :
    (modNoticePort p f s).audit = s.audit := rfl
@[simp] theorem modNoticePort_channels (p : Port) (f : NoticePort → NoticePort) :
    (modNoticePort p f s).channels = s.channels := rfl
@[simp] theorem modNoticePort_notices (p : Port) (f : NoticePort → NoticePort) :
    (modNoticePort p f s).notices = { s.notices with ports := s.notices.ports.modify p f } := rfl
@[simp] theorem modNoticePort_service (p : Port) (f : NoticePort → NoticePort) :
    (modNoticePort p f s).service = s.service := rfl
@[simp] theorem modNoticePort_links (p : Port) (f : NoticePort → NoticePort) :
    (modNoticePort p f s).links = s.links := rfl
@[simp] theorem modNoticePort_lastServed (p : Port) (f : NoticePort → NoticePort) :
    (modNoticePort p f s).lastServed = s.lastServed := rfl
@[simp] theorem modNoticePort_search (p : Port) (f : NoticePort → NoticePort) :
    (modNoticePort p f s).search = s.search := rfl
@[simp] theorem modNoticePort_resetHeld (p : Port) (f : NoticePort → NoticePort) :
    (modNoticePort p f s).resetHeld = s.resetHeld := rfl
@[simp] theorem modNoticePort_pending (p : Port) (f : NoticePort → NoticePort) :
    (modNoticePort p f s).pending = s.pending := rfl

@[simp] theorem modService_pool (f : Service → Service) : (modService f s).pool = s.pool := rfl
@[simp] theorem modService_heads (f : Service → Service) : (modService f s).heads = s.heads := rfl
@[simp] theorem modService_slots (f : Service → Service) : (modService f s).slots = s.slots := rfl
@[simp] theorem modService_rates (f : Service → Service) : (modService f s).rates = s.rates := rfl
@[simp] theorem modService_stock (f : Service → Service) : (modService f s).stock = s.stock := rfl
@[simp] theorem modService_stockDay (f : Service → Service) : (modService f s).stockDay = s.stockDay := rfl
@[simp] theorem modService_audit (f : Service → Service) : (modService f s).audit = s.audit := rfl
@[simp] theorem modService_channels (f : Service → Service) : (modService f s).channels = s.channels := rfl
@[simp] theorem modService_notices (f : Service → Service) : (modService f s).notices = s.notices := rfl
@[simp] theorem modService_service (f : Service → Service) : (modService f s).service = f s.service := rfl
@[simp] theorem modService_links (f : Service → Service) : (modService f s).links = s.links := rfl
@[simp] theorem modService_lastServed (f : Service → Service) : (modService f s).lastServed = s.lastServed := rfl
@[simp] theorem modService_search (f : Service → Service) : (modService f s).search = s.search := rfl
@[simp] theorem modService_resetHeld (f : Service → Service) : (modService f s).resetHeld = s.resetHeld := rfl
@[simp] theorem modService_pending (f : Service → Service) : (modService f s).pending = s.pending := rfl

@[simp] theorem modLink_pool (p : Port) (f : PortLink → PortLink) : (modLink p f s).pool = s.pool := rfl
@[simp] theorem modLink_heads (p : Port) (f : PortLink → PortLink) : (modLink p f s).heads = s.heads := rfl
@[simp] theorem modLink_slots (p : Port) (f : PortLink → PortLink) : (modLink p f s).slots = s.slots := rfl
@[simp] theorem modLink_rates (p : Port) (f : PortLink → PortLink) : (modLink p f s).rates = s.rates := rfl
@[simp] theorem modLink_stock (p : Port) (f : PortLink → PortLink) : (modLink p f s).stock = s.stock := rfl
@[simp] theorem modLink_stockDay (p : Port) (f : PortLink → PortLink) : (modLink p f s).stockDay = s.stockDay := rfl
@[simp] theorem modLink_audit (p : Port) (f : PortLink → PortLink) : (modLink p f s).audit = s.audit := rfl
@[simp] theorem modLink_channels (p : Port) (f : PortLink → PortLink) : (modLink p f s).channels = s.channels := rfl
@[simp] theorem modLink_notices (p : Port) (f : PortLink → PortLink) : (modLink p f s).notices = s.notices := rfl
@[simp] theorem modLink_service (p : Port) (f : PortLink → PortLink) : (modLink p f s).service = s.service := rfl
@[simp] theorem modLink_links (p : Port) (f : PortLink → PortLink) : (modLink p f s).links = s.links.modify p f := rfl
@[simp] theorem modLink_lastServed (p : Port) (f : PortLink → PortLink) :
    (modLink p f s).lastServed = s.lastServed := rfl
@[simp] theorem modLink_search (p : Port) (f : PortLink → PortLink) :
    (modLink p f s).search = s.search := rfl
@[simp] theorem modLink_resetHeld (p : Port) (f : PortLink → PortLink) :
    (modLink p f s).resetHeld = s.resetHeld := rfl
@[simp] theorem modLink_pending (p : Port) (f : PortLink → PortLink) : (modLink p f s).pending = s.pending := rfl

@[simp] theorem grant_pool (p : Port) : (grant p s).pool = s.pool := rfl
@[simp] theorem grant_heads (p : Port) : (grant p s).heads = s.heads := rfl
@[simp] theorem grant_slots (p : Port) : (grant p s).slots = s.slots := rfl
@[simp] theorem grant_rates (p : Port) : (grant p s).rates = s.rates := rfl
@[simp] theorem grant_stock (p : Port) : (grant p s).stock = s.stock := rfl
@[simp] theorem grant_stockDay (p : Port) : (grant p s).stockDay = s.stockDay := rfl
@[simp] theorem grant_audit (p : Port) : (grant p s).audit = s.audit := rfl
@[simp] theorem grant_channels (p : Port) : (grant p s).channels = s.channels := rfl
@[simp] theorem grant_notices (p : Port) :
    (grant p s).notices = { s.notices with ports := s.notices.ports.modify p fun n => { n with holdCount := n.holdCount - 1 } } := rfl
@[simp] theorem grant_service (p : Port) : (grant p s).service = s.service := rfl
@[simp] theorem grant_links (p : Port) : (grant p s).links = s.links.modify p fun l => { l with slot := none } := rfl
@[simp] theorem grant_lastServed (p : Port) : (grant p s).lastServed = p := rfl
@[simp] theorem grant_search (p : Port) : (grant p s).search = .fresh := rfl
@[simp] theorem grant_resetHeld (p : Port) : (grant p s).resetHeld = s.resetHeld := rfl
@[simp] theorem grant_pending (p : Port) : (grant p s).pending = s.pending := rfl

end Sys2Proof.Machine
end

