-- ==== Sys2Proof/Laws/Tab.lean ====
section
/-! SUPPORT. What reading, writing, counting and summing say about tables of a fixed number of things. -/

namespace Sys2Proof

variable {α β : Type} {n : Nat}

@[simp] theorem Tab.get_set_self (t : Tab α n) (i : Fin n) (x : α) : (t.set i x).get i = x := by
  simp [Tab.get, Tab.set]

@[simp] theorem Tab.get_set_ne (t : Tab α n) {i j : Fin n} (x : α) (h : j ≠ i) : (t.set i x).get j = t.get j := by
  simp only [Tab.get, Tab.set]
  exact List.getElem_set_ne (fun e => h (Fin.ext e.symm)) _

theorem Tab.get_set (t : Tab α n) (i j : Fin n) (x : α) : (t.set i x).get j = if j = i then x else t.get j := by
  split
  · subst_vars; simp
  · exact Tab.get_set_ne t x ‹_›

@[simp] theorem Tab.get_modify_self (t : Tab α n) (i : Fin n) (f : α → α) : (t.modify i f).get i = f (t.get i) :=
  Tab.get_set_self ..

@[simp] theorem Tab.get_modify_ne (t : Tab α n) {i j : Fin n} (f : α → α) (h : j ≠ i) :
    (t.modify i f).get j = t.get j := Tab.get_set_ne _ _ h

theorem Tab.get_modify (t : Tab α n) (i j : Fin n) (f : α → α) :
    (t.modify i f).get j = if j = i then f (t.get j) else t.get j := by
  rw [Tab.modify, Tab.get_set]; split
  · subst_vars; rfl
  · rfl

@[simp] theorem Tab.get_map (t : Tab α n) (f : α → β) (i : Fin n) : (t.map f).get i = f (t.get i) := by
  simp [Tab.get, Tab.map]

@[simp] theorem Tab.get_fill (x : α) (i : Fin n) : (Tab.fill n x).get i = x := by
  simp [Tab.get, Tab.fill]

theorem Tab.items_eq (t : Tab α n) : t.items = (List.finRange n).map t.get := by
  apply List.ext_getElem
  · simp [t.size]
  · intro i h1 h2; simp [Tab.get]

/-- Tables that read alike everywhere are equal. -/
theorem Tab.ext_get {t u : Tab α n} (h : ∀ i, t.get i = u.get i) : t = u := by
  have : t.items = u.items := by rw [t.items_eq, u.items_eq]; exact List.map_congr_left fun i _ => h i
  cases t; cases u; simp_all

@[simp] theorem Tab.set_get_self (t : Tab α n) (i : Fin n) : t.set i (t.get i) = t :=
  Tab.ext_get fun j => by rw [Tab.get_set]; split <;> simp_all

@[simp] theorem Tab.set_set (t : Tab α n) (i : Fin n) (x y : α) : (t.set i x).set i y = t.set i y :=
  Tab.ext_get fun j => by simp only [Tab.get_set]; split <;> rfl

theorem Tab.sum_eq (t : Tab α n) (f : α → Nat) : t.sum f = ((List.finRange n).map fun i => f (t.get i)).sum := by
  rw [Tab.sum, t.items_eq, List.map_map]; rfl

theorem Tab.count_eq (t : Tab α n) (p : α → Bool) :
    t.count p = ((List.finRange n).filter fun i => p (t.get i)).length := by
  rw [Tab.count, t.items_eq, List.countP_map, List.countP_eq_length_filter]; rfl

theorem sum_map_set (l : List α) (f : α → Nat) (x : α) :
    ∀ i (h : i < l.length), ((l.set i x).map f).sum + f l[i] = (l.map f).sum + f x := by
  induction l with
  | nil => intro i h; exact absurd h (Nat.not_lt_zero _)
  | cons a l ih =>
    intro i h
    cases i with
    | zero => simp; omega
    | succ i =>
      have := ih i (by simpa using h)
      simp only [List.set_cons_succ, List.map_cons, List.sum_cons, List.getElem_cons_succ]
      omega

/-- Replacing one thing moves the sum by the difference of its figures. -/
theorem Tab.sum_set (t : Tab α n) (i : Fin n) (x : α) (f : α → Nat) :
    (t.set i x).sum f + f (t.get i) = t.sum f + f x :=
  sum_map_set t.items f x i.val (by rw [t.size]; exact i.isLt)

theorem Tab.sum_congr {t u : Tab α n} {f : α → Nat} (h : ∀ i, f (t.get i) = f (u.get i)) : t.sum f = u.sum f := by
  rw [t.sum_eq, u.sum_eq]; simp only [h]

theorem Tab.sum_map (t : Tab α n) (g : α → β) (f : β → Nat) : (t.map g).sum f = t.sum fun x => f (g x) := by
  simp [Tab.sum, Tab.map, Function.comp_def]

theorem Tab.sum_fill_zero (x : α) (f : α → Nat) (h : f x = 0) : (Tab.fill n x).sum f = 0 := by
  simp [Tab.sum, Tab.fill, h]

theorem Tab.le_sum (t : Tab α n) (f : α → Nat) (i : Fin n) : f (t.get i) ≤ t.sum f := by
  rw [t.sum_eq]
  exact List.single_le_sum (fun _ _ => Nat.zero_le _) _ (List.mem_map.2 ⟨i, List.mem_finRange i, rfl⟩)

/-- A count is the sum of one for each thing counted. -/
theorem Tab.count_eq_sum (t : Tab α n) (p : α → Bool) : t.count p = t.sum fun x => (p x).toNat := by
  obtain ⟨l, h⟩ := t
  simp only [Tab.count, Tab.sum]
  clear h
  induction l with
  | nil => rfl
  | cons a l ih => rw [List.countP_cons, ih]; cases h : p a <;> simp [h]; omega

/-- Replacing one thing moves the count as it does what is counted. -/
theorem Tab.count_set (t : Tab α n) (i : Fin n) (x : α) (p : α → Bool) :
    (t.set i x).count p + (p (t.get i)).toNat = t.count p + (p x).toNat := by
  rw [Tab.count_eq_sum, Tab.count_eq_sum]
  exact t.sum_set i x fun x => (p x).toNat

theorem Tab.first_eq_some {t : Tab α n} {p : α → Bool} {i : Fin n} :
    t.first p = some i ↔ p (t.get i) = true ∧ ∀ j, j < i → p (t.get j) = false := by
  rw [Tab.first, numbers, List.find?_eq_some_iff_getElem]
  simp only [List.getElem_finRange, List.length_finRange]
  constructor
  · rintro ⟨hp, k, hk, rfl, hlt⟩
    refine ⟨hp, fun j hj => ?_⟩
    have := hlt j.val hj
    simpa using this
  · rintro ⟨hp, hlt⟩
    exact ⟨hp, i.val, i.isLt, rfl, fun j hj => by simpa using hlt ⟨j, by omega⟩ hj⟩

theorem Tab.first_eq_none {t : Tab α n} {p : α → Bool} : t.first p = none ↔ ∀ i, p (t.get i) = false := by
  simp [Tab.first, numbers]

@[simp] theorem mem_numbers (i : Fin n) : i ∈ numbers n := List.mem_finRange i

theorem index_eq_some {m k : Nat} {i : Fin m} : index m k = some i ↔ k = i.val := by
  unfold index
  split
  · simp [Fin.ext_iff]
  · simp; omega

@[simp] theorem index_val (i : Fin n) : index n i.val = some i := index_eq_some.2 rfl

theorem index_eq_none {m k : Nat} : index m k = none ↔ m ≤ k := by
  unfold index; split <;> simp <;> omega

end Sys2Proof
end

