-- ==== Sys2Proof/Laws/Ops.lean ====
section
/-! SUPPORT. What each shared operation can do, said once: raising a source, recording a refusal, writing a journal entry,
the evaluations, the counting of the channels, and the course of a request. -/

namespace Sys2Proof.Machine

open Sys2Proof.Config Sys2Proof.Safety

/-! ### Raising -/

/-- A raise changes the pending set at the raised source alone (R146). -/
theorem raiseSource_eq (n : SourceNo) (d : Detail) (s : State) :
    raiseSource n d s =
      { s with notices := { s.notices with pending := s.notices.pending.set n (afterRaise n d s) } } := by
  unfold raiseSource afterRaise
  split
  · simp
  · cases h : s.notices.pending.get n <;> simp [modNotices, raised, h]

@[simp] theorem raiseSource_pool (n d s) : (raiseSource n d s).pool = s.pool := by rw [raiseSource_eq]
@[simp] theorem raiseSource_heads (n d s) : (raiseSource n d s).heads = s.heads := by rw [raiseSource_eq]
@[simp] theorem raiseSource_slots (n d s) : (raiseSource n d s).slots = s.slots := by rw [raiseSource_eq]
@[simp] theorem raiseSource_rates (n d s) : (raiseSource n d s).rates = s.rates := by rw [raiseSource_eq]
@[simp] theorem raiseSource_stock (n d s) : (raiseSource n d s).stock = s.stock := by rw [raiseSource_eq]
@[simp] theorem raiseSource_stockDay (n d s) : (raiseSource n d s).stockDay = s.stockDay := by rw [raiseSource_eq]
@[simp] theorem raiseSource_audit (n d s) : (raiseSource n d s).audit = s.audit := by rw [raiseSource_eq]
@[simp] theorem raiseSource_channels (n d s) : (raiseSource n d s).channels = s.channels := by rw [raiseSource_eq]
@[simp] theorem raiseSource_service (n d s) : (raiseSource n d s).service = s.service := by rw [raiseSource_eq]
@[simp] theorem raiseSource_links (n d s) : (raiseSource n d s).links = s.links := by rw [raiseSource_eq]
@[simp] theorem raiseSource_lastServed (n d s) : (raiseSource n d s).lastServed = s.lastServed := by rw [raiseSource_eq]
@[simp] theorem raiseSource_search (n d s) : (raiseSource n d s).search = s.search := by rw [raiseSource_eq]
@[simp] theorem raiseSource_resetHeld (n d s) : (raiseSource n d s).resetHeld = s.resetHeld := by rw [raiseSource_eq]
@[simp] theorem raiseSource_queue (n d s) : (raiseSource n d s).pending = s.pending := by rw [raiseSource_eq]
@[simp] theorem raiseSource_levels (n d s) : (raiseSource n d s).notices.levels = s.notices.levels := by
  rw [raiseSource_eq]
@[simp] theorem raiseSource_ports (n d s) : (raiseSource n d s).notices.ports = s.notices.ports := by
  rw [raiseSource_eq]

theorem raiseSource_pending (n d s) (m : SourceNo) : (raiseSource n d s).notices.pending.get m =
    if m = n then afterRaise n d s else s.notices.pending.get m := by
  rw [raiseSource_eq]; exact Tab.get_set ..

/-- A hard alarm is raised and the service state changes by the table of R153; nothing else changes. -/
theorem raiseAlarm_eq (n : SourceNo) (s : State) :
    raiseAlarm n s = { raiseSource n (.alarm s.pool.day s.service.state) s with
      service := alarmState (decide (n = srcTamper) || alarmConflict s.notices n) s.service } := by
  simp [raiseAlarm, modService]

/-! ### The evaluations and the journal -/

/-- The near-full evaluation touches near-full armed and the source JOURNAL_NEAR_FULL alone (R113). -/
theorem evaluateNearFull_eq (s : State) : ∃ armed r,
    evaluateNearFull s = { s with
      audit := { s.audit with nearFullArmed := armed }
      notices := { s.notices with pending := s.notices.pending.set srcNearFull r } } ∧
    (r = s.notices.pending.get srcNearFull ∨ ∃ d, r = afterRaise srcNearFull d s) := by
  unfold evaluateNearFull
  split
  · rw [raiseSource_eq]; exact ⟨false, _, rfl, Or.inr ⟨_, rfl⟩⟩
  · split
    · exact ⟨true, _, by simp [modAudit], Or.inl rfl⟩
    · exact ⟨s.audit.nearFullArmed, _, by simp, Or.inl rfl⟩

/-- The low-credit evaluation touches low-credit armed and the source LOW_CREDIT alone (R6). -/
theorem evaluateLowCredit_eq (s : State) : ∃ armed r,
    evaluateLowCredit s = { s with
      pool := { s.pool with lowCreditArmed := armed }
      notices := { s.notices with pending := s.notices.pending.set srcLowCredit r } } ∧
    (r = s.notices.pending.get srcLowCredit ∨ ∃ d, r = afterRaise srcLowCredit d s) := by
  unfold evaluateLowCredit
  split
  · exact ⟨s.pool.lowCreditArmed, _, by simp, Or.inl rfl⟩
  · split
    · split
      · rw [raiseSource_eq]; exact ⟨false, _, rfl, Or.inr ⟨_, rfl⟩⟩
      · exact ⟨s.pool.lowCreditArmed, _, by simp, Or.inl rfl⟩
    · exact ⟨true, _, by simp [modPool], Or.inl rfl⟩

/-- A journal entry joins the newest end with the movement sequence, which rises by one (R9, R104, R107). -/
theorem writeEntry_eq (kind : EntryKind) (p : Port) (i : EntryItems) (s : State) :
    writeEntry kind p i s = { s with
      pool := { s.pool with movementSequence := (s.pool.movementSequence + 1) % 4294967296 }
      audit := { s.audit with
        journal := s.audit.journal ++ [entryNow kind p i s]
        accumulators := accumulate kind i s.audit.accumulators } } := rfl

/-- A refusal that is kept touches the port's fault record and PORT_FAULT alone (R155). -/
theorem recordRefusal_eq (p : Port) (code : ReplyCode) (number : Option Byte) (s : State) :
    recordRefusal p code number s = s ∨
      recordRefusal p code number s =
        { modLink p (fun l => { l with fault := { l.fault with sticky := true, code := some code, number := number } }) s with
          notices := { s.notices with
            pending := s.notices.pending.set (srcPortFault p) (afterRaise (srcPortFault p) (.portFault code number) s) } } := by
  unfold recordRefusal
  split
  · right; rw [raiseSource_eq]; rfl
  · left; rfl

@[simp] theorem recordRefusal_ok (p : Port) (number : Option Byte) (s : State) : recordRefusal p .ok number s = s := rfl

/-! ### The course of a request -/

/-- A request at its turn is granted, carried out and concluded (R174). -/
theorem serve_ready {c : Instr} {q : Req} {engine : State → Answer} {s : State} (h : Ready c q s) :
    serve c q engine s = conclude c q (engine (grant q.port s)) := by
  obtain ⟨w, hw, hc⟩ := h.waits
  simp [serve, h.running, hw, hc, atTurn, h.turn, execute]

/-- The course of a request keeps any property that the link's own changes, a grant, a raise and the writing of low-credit
armed keep, and that the engine keeps. -/
theorem serve_preserves {P : State → Prop} (hlink : ∀ p f s, P s → P (modLink p f s)) (hgrant : ∀ p s, P s → P (grant p s))
    (hraise : ∀ n d s, P s → P (raiseSource n d s))
    (harm : ∀ b s, P s → P (modPool (fun q => { q with lowCreditArmed := b }) s))
    {c : Instr} {q : Req} {engine : State → Answer} (he : ∀ s, P s → P (engine s).state) {s : State} (hs : P s) :
    P (serve c q engine s) := by
  have hrec : ∀ p code number s, P s → P (recordRefusal p code number s) := by
    intro p code number s h
    unfold recordRefusal
    split
    · exact hraise _ _ _ (hlink _ _ _ h)
    · exact h
  have hlow : ∀ s, P s → P (evaluateLowCredit s) := by
    intro s h
    unfold evaluateLowCredit
    split
    · exact h
    · split
      · split
        · exact hraise _ _ _ (harm _ _ h)
        · exact h
      · exact harm _ _ h
  have hturn : ∀ s, P s → P (atTurn c q engine s) := by
    intro s h
    unfold atTurn execute conclude
    split
    · exact hlow _ (hlink _ _ _ (hrec _ _ _ _ (he _ (hgrant _ _ h))))
    · exact h
  unfold serve
  split
  · exact hs
  · split
    · split
      · exact hrec _ _ _ _ (hlink _ _ _ (hlink _ _ _ hs))
      · split
        · exact hrec _ _ _ _ (hlink _ _ _ (hlink _ _ _ hs))
        · exact hturn _ (hlink _ _ _ (hlink _ _ _ hs))
    · split
      · exact hturn _ hs
      · exact hlink _ _ _ hs

/-! ### The counting of the channels -/

/-- A holder is added to a head's set, and HEAD_INHIBITED may be raised (R17). -/
theorem inhibitHead_eq (c : ChannelNo) (s : State) (h : Head) : ∃ r,
    inhibitHead c s h = { s with
      heads := s.heads.modify h fun x => { x with inhibitHolders := x.inhibitHolders.set c true }
      notices := { s.notices with pending := s.notices.pending.set (srcHeadInhibited h) r } } ∧
    (r = s.notices.pending.get (srcHeadInhibited h) ∨ ∃ d, r = afterRaise (srcHeadInhibited h) d s) := by
  unfold inhibitHead
  simp only
  split
  · rw [raiseSource_eq]; exact ⟨_, rfl, Or.inr ⟨_, rfl⟩⟩
  · exact ⟨_, by simp [modHead], Or.inl rfl⟩

/-- The counting of channel `c` touches that channel, the holders sets of the heads by adding `c`, and the pending set. -/
structure CountStep (c : ChannelNo) (s t : State) : Prop where
  shape : t = { s with
    channels := s.channels.set c (t.channels.get c), heads := t.heads
    notices := { s.notices with pending := t.notices.pending } }
  heads : ∀ h, { t.heads.get h with inhibitHolders := (s.heads.get h).inhibitHolders } = s.heads.get h
  held : ∀ h k, (t.heads.get h).inhibitHolders.get k = (s.heads.get h).inhibitHolders.get k ∨
    (k = c ∧ (t.heads.get h).inhibitHolders.get k = true)
  raises : ∀ n, n ∉ watchSources [] → t.notices.pending.get n = s.notices.pending.get n

theorem CountStep.refl (c : ChannelNo) (s : State) : CountStep c s s :=
  ⟨by simp, fun _ => rfl, fun _ _ => Or.inl rfl, fun _ _ => rfl⟩

theorem CountStep.trans {c : ChannelNo} {s t u : State} (h : CountStep c s t) (k : CountStep c t u) : CountStep c s u := by
  refine ⟨?_, fun x => ?_, fun x i => ?_, fun n hn => (k.raises n hn).trans (h.raises n hn)⟩
  · rw [k.shape, h.shape]
    simp
  · rw [← h.heads x, ← k.heads x]
  · rcases k.held x i with e | ⟨e, e'⟩
    · rcases h.held x i with g | ⟨g, g'⟩
      · exact Or.inl (e.trans g)
      · exact Or.inr ⟨g, e.trans g'⟩
    · exact Or.inr ⟨e, e'⟩

theorem CountStep.setChannel (c : ChannelNo) (ch : Channel) (s : State) : CountStep c s (setChannel c ch s) :=
  ⟨by simp [Machine.setChannel], fun _ => rfl, fun _ _ => Or.inl rfl, fun _ _ => rfl⟩

theorem mem_watchSources_zero (c : ChannelNo) (others : List SourceNo) : srcWatchZero c ∈ watchSources others := by
  simp [watchSources]

theorem mem_watchSources_inhibited (h : Head) (others : List SourceNo) : srcHeadInhibited h ∈ watchSources others := by
  simp [watchSources]

theorem CountStep.raise (c : ChannelNo) (n : SourceNo) (hn : n ∈ watchSources []) (d : Detail) (s : State) :
    CountStep c s (raiseSource n d s) := by
  refine ⟨?_, fun _ => by simp, fun _ _ => by simp, fun m hm => ?_⟩
  · rw [raiseSource_eq]; simp
  · rw [raiseSource_pending, if_neg (fun e => hm (by rw [e]; exact hn))]

theorem CountStep.inhibit (c : ChannelNo) (s : State) (h : Head) : CountStep c s (inhibitHead c s h) := by
  obtain ⟨r, e, _⟩ := inhibitHead_eq c s h
  rw [e]
  refine ⟨by simp, fun x => ?_, fun x k => ?_, fun n hn => ?_⟩
  · by_cases hx : x = h <;> simp [hx]
  · by_cases hx : x = h
    · subst hx
      by_cases hk : k = c
      · subst hk; simp
      · left; simp [hk]
    · left; simp [hx]
  · exact Tab.get_set_ne _ _ (fun e => hn (by rw [e]; exact mem_watchSources_inhibited h []))

theorem CountStep.inhibits (c : ChannelNo) (hs : List Head) (s : State) : CountStep c s (hs.foldl (inhibitHead c) s) := by
  induction hs generalizing s with
  | nil => exact .refl c s
  | cons h hs ih => exact (CountStep.inhibit c s h).trans (ih _)

theorem CountStep.runActions (c : ChannelNo) (ev : SourceEvent) (s : State) : CountStep c s (runActions c ev s) := by
  have h1 : CountStep c s (if actionNotifies (s.channels.get c).action then
      raiseSource (srcWatchZero c) (.watchZero c (s.channels.get c).count ev) s else s) := by
    split
    · exact .raise c _ (mem_watchSources_zero c []) _ s
    · exact .refl c s
  simp only [Machine.runActions]
  split
  · exact h1.trans (.inhibits c _ _)
  · exact h1

theorem CountStep.receiveEvent (c : ChannelNo) (ev : SourceEvent) (s : State) : CountStep c s (receiveEvent c ev s) := by
  simp only [Machine.receiveEvent]
  split
  · exact .setChannel c _ s
  · split
    · exact (CountStep.setChannel c _ s).trans (.runActions c ev _)
    · exact .setChannel c _ s
  · exact .refl c s

theorem CountStep.receiveEvents (c : ChannelNo) (ev : SourceEvent) (n : Nat) (s : State) :
    CountStep c s (receiveEvents c ev n s) := by
  induction n generalizing s with
  | zero => exact .refl c s
  | succ n ih =>
    simp only [Machine.receiveEvents]
    split
    · exact (CountStep.receiveEvent c ev s).trans (ih _)
    · exact .refl c s

/-- The channel after one event, as a function of the channel alone (R129, R136, R137, R138). -/
def nextChannel (ch : Channel) : Channel :=
  match ch.state with
  | .waiting => { ch with state := .running }
  | .running => if atLastEvent ch then reloaded ch else ticked ch
  | _ => ch

/-- The channel after `n` events, as a function of the channel alone. -/
def channelAfter (ev : SourceEvent) : Nat → Channel → Channel
  | 0, ch => ch
  | n + 1, ch => if isEventOf ch ev then channelAfter ev n (nextChannel ch) else ch

theorem inhibits_channels (c : ChannelNo) (hs : List Head) (s : State) :
    (hs.foldl (inhibitHead c) s).channels = s.channels := by
  induction hs generalizing s with
  | nil => rfl
  | cons h hs ih =>
    obtain ⟨r, e, _⟩ := inhibitHead_eq c s h
    rw [List.foldl_cons, ih, e]

theorem runActions_channels (c : ChannelNo) (ev : SourceEvent) (s : State) : (runActions c ev s).channels = s.channels := by
  simp only [runActions]
  split
  · rw [inhibits_channels]; split <;> simp
  · split <;> simp

theorem receiveEvent_channel (c : ChannelNo) (ev : SourceEvent) (s : State) :
    (receiveEvent c ev s).channels.get c = nextChannel (s.channels.get c) := by
  cases h : (s.channels.get c).state <;> simp only [receiveEvent, nextChannel, h]
  · simp
  · split
    · simp only [channelZero, runActions_channels]; simp
    · simp

theorem receiveEvents_channel (c : ChannelNo) (ev : SourceEvent) (n : Nat) (s : State) :
    (receiveEvents c ev n s).channels.get c = channelAfter ev n (s.channels.get c) := by
  induction n generalizing s with
  | zero => rfl
  | succ n ih =>
    simp only [receiveEvents, channelAfter]
    split
    · rw [ih, receiveEvent_channel]
    · rfl

theorem receiveEvents_idle {c : ChannelNo} {ev : SourceEvent} {s : State} (h : isEventOf (s.channels.get c) ev = false)
    (n : Nat) : receiveEvents c ev n s = s := by
  cases n <;> simp [receiveEvents, h]

/-- The counting of several channels, each once, in the list's order. -/
theorem countList (ev : SourceEvent) (n : Nat) : ∀ (cs : List ChannelNo), cs.Nodup → ∀ s t,
    t = cs.foldl (fun s c => receiveEvents c ev n s) s →
    t = { s with channels := t.channels, heads := t.heads, notices := { s.notices with pending := t.notices.pending } } ∧
    (∀ h, { t.heads.get h with inhibitHolders := (s.heads.get h).inhibitHolders } = s.heads.get h) ∧
    (∀ h k, (s.heads.get h).inhibitHolders.get k = true → (t.heads.get h).inhibitHolders.get k = true) ∧
    (∀ h k, isEventOf (s.channels.get k) ev = false ∨ k ∉ cs →
      (t.heads.get h).inhibitHolders.get k = (s.heads.get h).inhibitHolders.get k) ∧
    (∀ k, t.channels.get k = if k ∈ cs then channelAfter ev n (s.channels.get k) else s.channels.get k) ∧
    (∀ m, m ∉ watchSources [] → t.notices.pending.get m = s.notices.pending.get m) := by
  intro cs
  induction cs with
  | nil => rintro - s t rfl; simp
  | cons c cs ih =>
    intro hnd s t ht
    obtain ⟨hc, hcs⟩ := List.nodup_cons.1 hnd
    rw [List.foldl_cons] at ht
    have st := CountStep.receiveEvents c ev n s
    have hch := receiveEvents_channel c ev n s
    have hid : isEventOf (s.channels.get c) ev = false → receiveEvents c ev n s = s := fun h => receiveEvents_idle h n
    generalize receiveEvents c ev n s = u at ht st hch hid
    obtain ⟨e1, e2, e3, e4, e5, e6⟩ := ih hcs u t ht
    have huc : ∀ k, k ≠ c → u.channels.get k = s.channels.get k := by
      intro k hk; rw [st.shape]; exact Tab.get_set_ne _ _ hk
    refine ⟨?_, fun h => ?_, fun h k hk => ?_, fun h k hk => ?_, fun k => ?_, fun m hm => (e6 m hm).trans (st.raises m hm)⟩
    · rw [e1, st.shape]
    · rw [← st.heads h, ← e2 h]
    · apply e3
      rcases st.held h k with e | ⟨_, e⟩
      · exact e.trans hk
      · exact e
    · by_cases hkc : k = c
      · subst hkc
        rcases hk with hk | hk
        · rw [e4 h k (Or.inr hc), hid hk]
        · exact absurd (List.mem_cons_self) hk
      · rw [e4 h k (by
          rcases hk with hk | hk
          · left; rw [huc k hkc]; exact hk
          · right; exact fun x => hk (List.mem_cons_of_mem _ x))]
        rcases st.held h k with e | ⟨e, _⟩
        · exact e
        · exact absurd e hkc
    · rw [e5 k]
      by_cases hkc : k = c
      · subst hkc; simp [hc, hch]
      · simp [hkc, huc k hkc]

/-- The counting of `n` events touches the channels, the holders sets and the pending set alone; each channel takes the
events as if alone (R135). -/
theorem countEvents_spec (ev : SourceEvent) (n : Nat) (s : State) :
    countEvents ev n s = { s with
      channels := (countEvents ev n s).channels, heads := (countEvents ev n s).heads
      notices := { s.notices with pending := (countEvents ev n s).notices.pending } } ∧
    (∀ h, { (countEvents ev n s).heads.get h with inhibitHolders := (s.heads.get h).inhibitHolders } = s.heads.get h) ∧
    (∀ h k, (s.heads.get h).inhibitHolders.get k = true → ((countEvents ev n s).heads.get h).inhibitHolders.get k = true) ∧
    (∀ h k, isEventOf (s.channels.get k) ev = false →
      ((countEvents ev n s).heads.get h).inhibitHolders.get k = (s.heads.get h).inhibitHolders.get k) ∧
    (∀ k, (countEvents ev n s).channels.get k = channelAfter ev n (s.channels.get k)) ∧
    (∀ m, m ∉ watchSources [] → (countEvents ev n s).notices.pending.get m = s.notices.pending.get m) := by
  obtain ⟨h1, h2, h3, h4, h5, h6⟩ := countList ev n (numbers 8) (List.nodup_finRange 8) s _ rfl
  refine ⟨h1, h2, h3, fun h k hk => h4 h k (Or.inl hk), fun k => ?_, h6⟩
  have := h5 k
  rwa [if_pos (mem_numbers k)] at this

@[simp] theorem countEvents_pool (ev n s) : (countEvents ev n s).pool = s.pool := by rw [(countEvents_spec ev n s).1]
@[simp] theorem countEvents_slots (ev n s) : (countEvents ev n s).slots = s.slots := by rw [(countEvents_spec ev n s).1]
@[simp] theorem countEvents_rates (ev n s) : (countEvents ev n s).rates = s.rates := by rw [(countEvents_spec ev n s).1]
@[simp] theorem countEvents_stock (ev n s) : (countEvents ev n s).stock = s.stock := by rw [(countEvents_spec ev n s).1]
@[simp] theorem countEvents_stockDay (ev n s) : (countEvents ev n s).stockDay = s.stockDay := by
  rw [(countEvents_spec ev n s).1]
@[simp] theorem countEvents_audit (ev n s) : (countEvents ev n s).audit = s.audit := by rw [(countEvents_spec ev n s).1]
@[simp] theorem countEvents_service (ev n s) : (countEvents ev n s).service = s.service := by
  rw [(countEvents_spec ev n s).1]
@[simp] theorem countEvents_links (ev n s) : (countEvents ev n s).links = s.links := by rw [(countEvents_spec ev n s).1]
@[simp] theorem countEvents_lastServed (ev n s) : (countEvents ev n s).lastServed = s.lastServed := by
  rw [(countEvents_spec ev n s).1]
@[simp] theorem countEvents_search (ev n s) : (countEvents ev n s).search = s.search := by
  rw [(countEvents_spec ev n s).1]
@[simp] theorem countEvents_resetHeld (ev n s) : (countEvents ev n s).resetHeld = s.resetHeld := by
  rw [(countEvents_spec ev n s).1]
@[simp] theorem countEvents_queue (ev n s) : (countEvents ev n s).pending = s.pending := by
  rw [(countEvents_spec ev n s).1]

end Sys2Proof.Machine
end

