-- ==== Sys2Proof/Laws/Answers.lean ====
section
/-! SUPPORT. From a request's turn to its reply: what the grant and the conclusion do around the engine's part, said once,
so that a statement about a request needs the engine's part alone. -/

namespace Sys2Proof.Machine

open Sys2Proof.Config Sys2Proof.Safety

/-! ### The grant (R151, R174) -/

/-- The grant weighs every source as before. -/
theorem grant_sourceLevel (p : Port) (s : State) (n : SourceNo) :
    sourceLevel (grant p s).notices n = sourceLevel s.notices n := rfl

/-- A raise after the grant leaves of a source what the raise alone would. -/
@[simp] theorem afterRaise_grant (n : SourceNo) (d : Detail) (p : Port) (s : State) :
    afterRaise n d (grant p s) = afterRaise n d s := rfl

/-! ### The engine's part -/

/-- What it means that the engine's part of a request left a part of the granted state `g` as it was. -/
def EnginePartKept (q : Req) (g t : State) : Part → Prop
  | .pool => t.pool = { g.pool with lowCreditArmed := t.pool.lowCreditArmed }
  | .heads => ∀ h, { t.heads.get h with inhibitHolders := (g.heads.get h).inhibitHolders } = g.heads.get h
  | .inhibits => ∀ h, (t.heads.get h).inhibitHolders = (g.heads.get h).inhibitHolders
  | .slots => t.slots = g.slots
  | .rates => t.rates = g.rates
  | .stock => t.stock = g.stock
  | .stockDay => t.stockDay = g.stockDay
  | .audit => t.audit = g.audit
  | .channels => t.channels = g.channels
  | .service => t.service = g.service
  | .levels => t.notices.levels = g.notices.levels
  | .stack => ∀ p, (t.notices.ports.get p).stack = (g.notices.ports.get p).stack
  | .nesting => ∀ p, (t.notices.ports.get p).noNesting = (g.notices.ports.get p).noNesting
  | .holds => ∀ p, (t.notices.ports.get p).holdCount = (g.notices.ports.get p).holdCount
  | .raises => ∀ n, n ≠ srcLowCredit → t.notices.pending.get n = g.notices.pending.get n
  | .fault => (t.links.get q.port).fault = (g.links.get q.port).fault

/-- The engine's part of a request from `q` turned the granted state `g` into `t`: of the links it wrote at most the
port's fault record, and of the parts of the state at most those of `changed`. -/
structure EngineKept (changed : List Part) (q : Req) (g t : State) : Prop where
  links : t.links = g.links.modify q.port fun l => { l with fault := (t.links.get q.port).fault }
  served : t.lastServed = g.lastServed
  search : t.search = g.search
  running : t.resetHeld = g.resetHeld
  queue : t.pending = g.pending
  kept : ∀ part, part ∉ changed → EnginePartKept q g t part

/-- An engine's part that changes nothing keeps every part. -/
theorem EngineKept.refl (q : Req) (g : State) : EngineKept [] q g g := by
  refine ⟨?_, rfl, rfl, rfl, rfl, fun part _ => ?_⟩
  · exact (Tab.set_get_self ..).symm
  · cases part <;> simp [EnginePartKept]

/-! ### The conclusion (R6, R20, R155, R173) -/

/-- The state that follows the engine's answer `a` when nothing is recorded: the reply in the slot, low-credit armed, and
LOW_CREDIT. -/
def concluded (c : Instr) (q : Req) (a : Answer) (armed : Bool) (r : Option Raised) : State :=
  { a.state with
    pool := { a.state.pool with lowCreditArmed := armed }
    links := a.state.links.modify q.port fun l =>
      { l with reply := some ⟨a.code, q.number, resultFlags c q.port a.wrapped a.state, a.body⟩ }
    notices := { a.state.notices with pending := a.state.notices.pending.set srcLowCredit r } }

/-- The conclusion of an answer whose code the port does not record. -/
theorem conclude_eq (c : Instr) (q : Req) (a : Answer)
    (h : isRecorded (a.state.links.get q.port).fault a.code = false) :
    ∃ armed r, conclude c q a = concluded c q a armed r := by
  obtain ⟨b, r, e, -⟩ := evaluateLowCredit_eq (modLink q.port (fun l =>
    { l with reply := some ⟨a.code, q.number, resultFlags c q.port a.wrapped a.state, a.body⟩ }) a.state)
  refine ⟨b, r, ?_⟩
  simp only [conclude, recordRefusal, h]
  exact e

/-- A request at its turn, whose engine's part answers `a` with a code that the port does not record, is answered with
`a`'s code and body. -/
theorem serve_answered {changed : List Part} {c : Instr} {q : Req} {engine : State → Answer} {s : State} {a : Answer}
    (hr : Ready c q s) (ha : engine (grant q.port s) = a)
    (h : isRecorded (a.state.links.get q.port).fault a.code = false)
    (k : EngineKept changed q (grant q.port s) a.state) :
    ∃ armed r, serve c q engine s = concluded c q a armed r ∧
      Answered changed q s (concluded c q a armed r)
        ⟨a.code, q.number, resultFlags c q.port a.wrapped a.state, a.body⟩ := by
  obtain ⟨b, r, e⟩ := conclude_eq c q a h
  refine ⟨b, r, by rw [serve_ready hr, ha, e], ?_⟩
  unfold concluded
  refine ⟨?_, fun p hp => ?_, k.served, k.search, k.running, k.queue, fun part hp => ?_⟩
  · dsimp only; rw [k.links]; simp
  · dsimp only; rw [k.links]; simp [hp]
  · have := k.kept part hp
    cases part <;> simp only [EnginePartKept, Kept] at this ⊢
    case pool => rw [this]; simp
    case raises => intro n hn; rw [Tab.get_set_ne _ _ hn, this n hn]; simp
    case holds => intro p; rw [this p]; simp [Tab.get_modify]; split <;> simp_all
    case fault => simpa using this
    all_goals first
      | exact this
      | (intro p; have h2 := this p; simp [Tab.get_modify] at h2 ⊢
         first | exact h2 | (rw [h2]; split <;> simp_all))

/-- An accepted request is answered OK. -/
theorem serve_accepted {changed : List Part} {c : Instr} {q : Req} {engine : State → Answer} {s u : State} {body : ReplyBody}
    {w : Bool} (hr : Ready c q s) (ha : engine (grant q.port s) = ⟨u, .ok, body, w⟩)
    (k : EngineKept changed q (grant q.port s) u) :
    ∃ armed r, serve c q engine s = concluded c q ⟨u, .ok, body, w⟩ armed r ∧
      Answered changed q s (concluded c q ⟨u, .ok, body, w⟩ armed r) ⟨.ok, q.number, resultFlags c q.port w u, body⟩ :=
  serve_answered hr ha rfl k

/-- The flags of a reply that is no money reply are clear (R20). -/
theorem resultFlags_clear {c : Instr} (h : moneyCodes.contains (requestCode c) = false) (p : Port) (w : Bool) (s : State) :
    resultFlags c p w s = ⟨false, false, false, false⟩ := by
  unfold resultFlags; rw [h]; rfl

/-- The flags of a money reply are those of the state the request left (R20). -/
theorem resultFlags_money {c : Instr} (h : moneyCodes.contains (requestCode c) = true) (q : Req) (w : Bool) (a : Answer)
    (armed : Bool) (r : Option Raised) :
    resultFlags c q.port w a.state = moneyFlags (flagHead c q.port) w (concluded c q a armed r) := by
  unfold resultFlags moneyFlags residueFlag concluded
  rw [h]
  cases flagHead c q.port <;> rfl

/-- An accepted request that is no money request is answered OK with clear flags. -/
theorem serve_ok {changed : List Part} {c : Instr} {q : Req} {engine : State → Answer} {s u : State} {body : ReplyBody}
    {w : Bool} (hr : Ready c q s) (hm : moneyCodes.contains (requestCode c) = false)
    (ha : engine (grant q.port s) = ⟨u, .ok, body, w⟩) (k : EngineKept changed q (grant q.port s) u) :
    ∃ armed r, serve c q engine s = concluded c q ⟨u, .ok, body, w⟩ armed r ∧
      Answered changed q s (concluded c q ⟨u, .ok, body, w⟩ armed r) (okReply q body) := by
  have h := serve_accepted hr ha k
  rwa [resultFlags_clear hm] at h

/-- An accepted money request is answered OK with the flags of the state it left. -/
theorem serve_okMoney {changed : List Part} {c : Instr} {q : Req} {engine : State → Answer} {s u : State} {body : ReplyBody}
    {w : Bool} (hr : Ready c q s) (hm : moneyCodes.contains (requestCode c) = true)
    (ha : engine (grant q.port s) = ⟨u, .ok, body, w⟩) (k : EngineKept changed q (grant q.port s) u) :
    ∃ armed r, serve c q engine s = concluded c q ⟨u, .ok, body, w⟩ armed r ∧
      Answered changed q s (concluded c q ⟨u, .ok, body, w⟩ armed r)
        (okMoneyReply q (flagHead c q.port) w (concluded c q ⟨u, .ok, body, w⟩ armed r) body) := by
  obtain ⟨b, r, e, h⟩ := serve_accepted hr ha k
  refine ⟨b, r, e, ?_⟩
  have hf := resultFlags_money hm q w ⟨u, .ok, body, w⟩ b r
  simp only at hf
  rwa [hf] at h

/-! ### Refusals (R155) -/

/-- What the port records is what the classes of R155 keep. -/
theorem isRecorded_iff (f : FaultRecord) (code : ReplyCode) : isRecorded f code = true ↔ KeptRefusal f code := by
  cases code <;> simp [isRecorded, KeptRefusal]

theorem srcPortFault_ne_lowCredit (p : Port) : srcPortFault p ≠ srcLowCredit := by
  intro e
  have : 24 + p.val = 20 := by simpa [srcPortFault, srcLowCredit] using congrArg Fin.val e
  omega

/-- A request at its turn whose engine's part refuses it changes no record, and is recorded by the classes of R155. -/
theorem serve_refused {c : Instr} {q : Req} {engine : State → Answer} {s : State} {code : ReplyCode} {body : ReplyBody}
    (hr : Ready c q s) (ha : engine (grant q.port s) = refuse (grant q.port s) code body) :
    Refused q s (serve c q engine s) ⟨code, q.number, resultFlags c q.port false (grant q.port s), body⟩ := by
  rw [serve_ready hr, ha]
  simp only [conclude, refuse]
  obtain ⟨armed, r, e, -⟩ := evaluateLowCredit_eq (modLink q.port
    (fun l => { l with reply := some ⟨code, q.number, resultFlags c q.port false (grant q.port s), body⟩ })
    (recordRefusal q.port code (some q.number) (grant q.port s)))
  rw [e]
  have hl : ∀ p, p ≠ q.port → (grant q.port s).links.get p = s.links.get p := fun p hp => by simp [hp]
  have hs : (grant q.port s).links.get q.port = { s.links.get q.port with slot := none } := by simp
  have hn : (grant q.port s).notices = { s.notices with
      ports := s.notices.ports.modify q.port fun n => { n with holdCount := n.holdCount - 1 } } := rfl
  have hk : isRecorded ((grant q.port s).links.get q.port).fault code =
      decide (KeptRefusal (s.links.get q.port).fault code) := by
    rw [hs, Bool.eq_iff_iff, isRecorded_iff, decide_eq_true_iff]
  by_cases hc : KeptRefusal (s.links.get q.port).fault code
  · have hrec : recordRefusal q.port code (some q.number) (grant q.port s) =
        raiseSource (srcPortFault q.port) (.portFault code (some q.number)) (modLink q.port (fun l =>
          { l with fault := { l.fault with sticky := true, code := some code, number := some q.number } }) (grant q.port s)) := by
      unfold recordRefusal
      rw [if_pos (by rw [hk]; exact decide_eq_true hc)]
    rw [hrec, raiseSource_eq]
    refine ⟨⟨by simp [modLink], fun p hp => by simp [modLink, hp], rfl, rfl, rfl, rfl, fun part hp => ?_⟩, ?_, ?_, ?_⟩
    · cases part <;> simp_all [Kept, modLink, Tab.get_modify] <;> (intros; split <;> simp_all)
    · simp [modLink, hc]
    · simp only [hc, if_true, modLink]
      rw [Tab.get_set_ne _ _ (srcPortFault_ne_lowCredit _), Tab.get_set_self]
      rfl
    · intro n hn'
      simp only [List.mem_cons, List.not_mem_nil, or_false, not_or] at hn'
      simp only [modLink]
      rw [Tab.get_set_ne _ _ hn'.2, Tab.get_set_ne _ _ hn'.1]
      rfl
  · have hrec : recordRefusal q.port code (some q.number) (grant q.port s) = grant q.port s := by
      unfold recordRefusal
      rw [if_neg (by rw [hk]; simpa using hc)]
    rw [hrec]
    refine ⟨⟨by simp [modLink], fun p hp => by simp [modLink, hp], rfl, rfl, rfl, rfl, fun part hp => ?_⟩, ?_, ?_, ?_⟩
    · cases part <;> simp_all [Kept, modLink, Tab.get_modify] <;> (intros; split <;> simp_all)
    · simp [modLink, hc]
    · simp only [hc, if_false, modLink]
      rw [Tab.get_set_ne _ _ (srcPortFault_ne_lowCredit _)]
      rfl
    · intro n hn'
      simp only [List.mem_cons, List.not_mem_nil, or_false, not_or] at hn'
      simp only [modLink]
      rw [Tab.get_set_ne _ _ hn'.2]
      rfl

/-- A refused request that is no money request carries clear flags (R20). -/
theorem serve_plainRefused {c : Instr} {q : Req} {engine : State → Answer} {s : State} {code : ReplyCode} {body : ReplyBody}
    (hr : Ready c q s) (hm : moneyCodes.contains (requestCode c) = false)
    (ha : engine (grant q.port s) = refuse (grant q.port s) code body) :
    PlainRefused q s (serve c q engine s) code body := by
  have h := serve_refused hr ha
  rwa [resultFlags_clear hm] at h

/-- A refused money request carries the flags of the state it left unchanged (R20). -/
theorem serve_moneyRefused {c : Instr} {q : Req} {engine : State → Answer} {s : State} {code : ReplyCode} {body : ReplyBody}
    (hr : Ready c q s) (hm : moneyCodes.contains (requestCode c) = true)
    (ha : engine (grant q.port s) = refuse (grant q.port s) code body) :
    MoneyRefused q (flagHead c q.port) s (serve c q engine s) code body := by
  have h := serve_refused hr ha
  have hp := h.answered.kept .pool (by simp)
  have hh := h.answered.kept .heads (by simp)
  simp only [Kept] at hp hh
  have hf : resultFlags c q.port false (grant q.port s) = moneyFlags (flagHead c q.port) false (serve c q engine s) := by
    unfold resultFlags moneyFlags residueFlag
    rw [hm, hp]
    cases flagHead c q.port with
    | none => rfl
    | some x =>
      have := congrArg HeadRecord.residue (hh x)
      simp only at this
      have hx : decide (((serve c q engine s).heads.get x).residue ≠ 0) = decide ((s.heads.get x).residue ≠ 0) := by
        rw [this]
      simp only [Option.map_some, Option.getD_some, hx]
      rfl
  rw [hf] at h
  exact h

/-- A request at its turn whose engine's part accepts it is answered OK. -/
theorem serve_answeredOk {c : Instr} {q : Req} {engine : State → Answer} {s u : State} {body : ReplyBody} {w : Bool}
    (hr : Ready c q s) (ha : engine (grant q.port s) = ⟨u, .ok, body, w⟩) : AnsweredOk q (serve c q engine s) := by
  obtain ⟨armed, r, e⟩ := conclude_eq c q ⟨u, .ok, body, w⟩ rfl
  rw [serve_ready hr, ha, e]
  exact ⟨⟨.ok, q.number, resultFlags c q.port w u, body⟩, by simp [concluded], rfl⟩

/-! ### The near-full evaluation (R113) -/

/-- A state that takes near-full armed and JOURNAL_NEAR_FULL from the evaluation of `u`, whose journal and claims it has,
has been evaluated. -/
theorem nearFullEvaluated {s u t : State} (ha : u.audit.nearFullArmed = s.audit.nearFullArmed)
    (hp : u.notices.pending.get srcNearFull = s.notices.pending.get srcNearFull)
    (hj : t.audit.journal.length = u.audit.journal.length) (hc : t.audit.claimed = u.audit.claimed)
    (hta : t.audit.nearFullArmed = (evaluateNearFull u).audit.nearFullArmed)
    (htp : t.notices.pending.get srcNearFull = (evaluateNearFull u).notices.pending.get srcNearFull) :
    NearFullEvaluated s t := by
  have hr : ∀ d, afterRaise srcNearFull d u = afterRaise srcNearFull d s := fun d => by
    simp only [afterRaise, hp]; rfl
  constructor
  · rw [hta, hj, hc]
    unfold evaluateNearFull journalFree unacknowledged journalCapacity
    rw [ha]
    split
    · rw [raiseSource_audit]; simp [modAudit, *]
    · split
      · simp [modAudit]; omega
      · split
        · simp_all
        · exact ha
  · rw [htp, hj, hc]
    unfold evaluateNearFull journalFree unacknowledged journalCapacity
    rw [ha]
    split
    · rename_i h
      rw [raiseSource_pending, if_pos rfl, ← hr]; rfl
    · split <;> exact hp

end Sys2Proof.Machine
end

