-- ==== Sys2Proof/Laws/Checks.lean ====
section
/-! SUPPORT. What the checks of the requests decide, in the terms of the rules: the roles of R175, the service states, the free
journal entries, the hard alarms of R160, the control fields of R130 and the source events of R135. -/

namespace Sys2Proof.Machine

open Sys2Proof.Config Sys2Proof.Safety

set_option maxRecDepth 20000 in
/-- A port may send the codes that the table of R175 permits to its role, and no other. -/
theorem roleAllows_iff (p : Port) (code : Nat) : roleAllows p code = true ↔ MaySend p code := by
  by_cases hc : code < 120
  · have h : ∀ p : Port, ∀ code < 120, roleAllows p code = true ↔ MaySend p code := by decide
    exact h p code hc
  · constructor
    · intro h
      simp [roleAllows, codesOfAll, codesOfHeads, codesOfTeller, codesOfFunding, codesOfBoth] at h
      omega
    · rintro ⟨row, hr, rfl, -⟩
      have : ∀ row ∈ requestTable, row.1 < 120 := by decide
      exact absurd (this row hr) hc

/-- The states in which most requests are taken are IN_SERVICE and HALTED. -/
theorem isWorking_iff (v : ServiceState) : isWorking v = true ↔ v = .inService ∨ v = .halted := by
  cases v <;> simp [isWorking]

/-- No journal entry is free when the entries and the claims fill the journal (R108). -/
theorem journalFree_eq_zero (s : State) : journalFree s = 0 ↔ 512 ≤ s.audit.journal.length + s.audit.claimed := by
  simp only [journalFree, unacknowledged, journalCapacity]; omega

/-! ### Hard alarms (R160, R161, R165) -/

theorem alarmStands_iff (u : NoticeUnit) (n : SourceNo) : alarmStands u n = true ↔ AlarmStands u n := by
  simp [alarmStands, AlarmStands, fundingPort]

/-- The list of the standing alarms holds those that are pending or in service, in ascending order. -/
theorem standingAlarms_list (u : NoticeUnit) : StandingList u (standingAlarms u) where
  ascending := List.Pairwise.sublist List.filter_sublist (by decide)
  complete := fun n => by
    simp only [standingAlarms, hardAlarms, List.mem_filter, alarmStands_iff, List.mem_cons, List.not_mem_nil, or_false]
    rfl

/-- The grant leaves the standing alarms as they are. -/
@[simp] theorem standingAlarms_grant (p : Port) (s : State) :
    standingAlarms (grant p s).notices = standingAlarms s.notices := by
  unfold standingAlarms
  congr 1
  funext n
  simp only [alarmStands, grant_notices, Tab.get_modify]
  split <;> simp_all

/-- The tamper level or a standing hard alarm stands in the way of COMMISSION and UNLOCK. -/
theorem conditionStands_iff (s : State) : conditionStands s = true ↔ ConditionStands s := by
  simp only [conditionStands, ConditionStands, Bool.or_eq_true, Bool.not_eq_true', List.isEmpty_eq_false_iff_exists_mem,
    (standingAlarms_list s.notices).complete]

/-! ### The watch channels (R130, R135) -/

/-- An event is one of a channel's source as R135 says. -/
theorem isEventOf_iff (ch : Channel) (ev : SourceEvent) : isEventOf ch ev = true ↔ EventFor ch ev := by
  unfold isEventOf EventFor eventSource
  cases ev <;> simp

/-- A mask is the set of the heads it lists. -/
theorem maskSet_eq {l : List Nat} {m : HeadSet} (h : ∀ i : Head, m.get i = true ↔ i.val ∈ l) : maskSet l = m := by
  refine Tab.ext_get fun i => ?_
  rw [Bool.eq_iff_iff, h]
  simp [maskSet, Tab.get]

/-- Control fields that pass line 4 of R130 are taken as what they name. -/
theorem controlsOf_carries {f : ControlFields} {g : Controls} (h : Carries f g) : controlsOf f = some g := by
  obtain ⟨h1, ⟨h2, h2'⟩, h3, h4, h5, h6, h6'⟩ := h
  have e2 : (f.headMask.any fun h => decide (5 < h)) = false := by simpa using h2
  have e6 : (f.inhibitMask.any fun h => decide (5 < h)) = false := by simpa using h6
  have hp : prescaleOf f.prescale = some g.prescale ∧ (decide (g.prescale = .hundred) && decide (g.source ≠ .pieces)) = false := by
    rcases h3 with ⟨a, b⟩ | ⟨a, b, c⟩
    · simp [prescaleOf, a, b]
    · simp [prescaleOf, a, b, c]
  simp only [controlsOf, h1, h4, h5, hp.1, e2, e6, hp.2, maskSet_eq h2', maskSet_eq h6']
  rfl

/-- Line 4 of R130 refuses the fields and the operation that `controlsOf` and `operationOf` do not take. -/
theorem fieldsRefused_iff (f : ControlFields) (op : Coded WatchOp) :
    FieldsRefused f op ↔ controlsOf f = none ∨ operationOf op = none := by
  obtain ⟨src, hm, pre, st, act, im⟩ := f
  have hop : operationOf op = none ↔ op = .unknown ∨ ∃ n, op = .known (.load n) ∧ 65535 < n := by
    cases op with
    | unknown => simp [operationOf]
    | known o => cases o <;> simp [operationOf]
  have hall : ∀ l : List Nat, (∀ x ∈ l, x ≤ 5) ↔ ¬∃ x ∈ l, 5 < x := fun l => by simp
  rw [hop]
  unfold FieldsRefused controlsOf prescaleOf
  cases src <;> cases st <;> cases act <;> simp
  by_cases h1 : pre = 1
  · simp only [h1]
    simp
    rw [hall hm]
    generalize (∃ x ∈ hm, 5 < x) = a
    generalize (∃ x ∈ im, 5 < x) = b
    generalize (∃ n, op = Coded.known (WatchOp.load n) ∧ 65535 < n) = d
    tauto
  · by_cases h2 : pre = 100
    · simp only [h2]
      simp
      rw [hall hm, hall im]
      generalize (∃ x ∈ hm, 5 < x) = a
      generalize (∃ x ∈ im, 5 < x) = b
      generalize (∃ n, op = Coded.known (WatchOp.load n) ∧ 65535 < n) = d
      tauto
    · simp [h1, h2]

end Sys2Proof.Machine
end

