-- ==== Sys2Proof/Laws/Counting.lean ====
section
/-! SUPPORT. What the counting of the watch channels can do, said once: each channel takes the events as if alone, and a head
that passes from held by none to held raises HEAD_INHIBITED once. -/

namespace Sys2Proof.Machine

open Sys2Proof.Config Sys2Proof.Safety

/-! ### What is a channel's own -/

/-- `s` and `t` agree in what channel `c` owns: itself, its number in the holders sets, and its WATCH_ZERO. -/
structure OwnEqual (c : ChannelNo) (s t : State) : Prop where
  channel : t.channels.get c = s.channels.get c
  holder : ∀ h, (t.heads.get h).inhibitHolders.get c = (s.heads.get h).inhibitHolders.get c
  zero : t.notices.pending.get (srcWatchZero c) = s.notices.pending.get (srcWatchZero c)
  levels : t.notices.levels = s.notices.levels

theorem OwnEqual.refl (c : ChannelNo) (s : State) : OwnEqual c s s := ⟨rfl, fun _ => rfl, rfl, rfl⟩

theorem OwnEqual.trans {c : ChannelNo} {s t u : State} (a : OwnEqual c s t) (b : OwnEqual c t u) : OwnEqual c s u :=
  ⟨b.channel.trans a.channel, fun h => (b.holder h).trans (a.holder h), b.zero.trans a.zero, b.levels.trans a.levels⟩

theorem srcWatchZero_inj {c k : ChannelNo} (h : srcWatchZero c = srcWatchZero k) : c = k :=
  Fin.ext (by simpa [srcWatchZero] using h)

theorem srcHeadInhibited_inj {h k : Head} (e : srcHeadInhibited h = srcHeadInhibited k) : h = k :=
  Fin.ext (by simpa [srcHeadInhibited] using e)

theorem srcHeadInhibited_ne_zero (h : Head) (c : ChannelNo) : srcHeadInhibited h ≠ srcWatchZero c := by
  intro e
  have : 14 + h.val = c.val := by simpa [srcHeadInhibited, srcWatchZero] using congrArg Fin.val e
  omega

/-- A raise weighs by the levels alone. -/
theorem afterRaise_congr {n : SourceNo} {s t : State} (hl : t.notices.levels = s.notices.levels)
    (hp : t.notices.pending.get n = s.notices.pending.get n) (d : Detail) : afterRaise n d t = afterRaise n d s := by
  have e : sourceLevel t.notices n = sourceLevel s.notices n := by simp only [sourceLevel, hl]
  simp only [afterRaise, e, hp]

/-- The counting of channel `k` leaves what another channel owns. -/
structure Foreign (k : ChannelNo) (s t : State) : Prop where
  own : ∀ c, c ≠ k → OwnEqual c s t

theorem Foreign.inhibit (k : ChannelNo) (s : State) (h : Head) : Foreign k s (inhibitHead k s h) := by
  obtain ⟨r, e, _⟩ := inhibitHead_eq k s h
  rw [e]
  refine ⟨fun c hc => ⟨rfl, fun x => ?_, ?_, rfl⟩⟩
  · by_cases hx : x = h
    · subst hx; simp [hc]
    · simp [hx]
  · exact Tab.get_set_ne _ _ (srcHeadInhibited_ne_zero h c).symm

theorem Foreign.inhibits (k : ChannelNo) (hs : List Head) (s : State) : Foreign k s (hs.foldl (inhibitHead k) s) := by
  induction hs generalizing s with
  | nil => exact ⟨fun c _ => .refl c s⟩
  | cons h hs ih => exact ⟨fun c hc => ((Foreign.inhibit k s h).own c hc).trans ((ih _).own c hc)⟩

theorem Foreign.runActions (k : ChannelNo) (ev : SourceEvent) (s : State) : Foreign k s (runActions k ev s) := by
  have h1 : Foreign k s (if actionNotifies (s.channels.get k).action then
      raiseSource (srcWatchZero k) (.watchZero k (s.channels.get k).count ev) s else s) := by
    split
    · refine ⟨fun c hc => ⟨by simp, fun _ => by simp, ?_, by simp⟩⟩
      rw [raiseSource_pending, if_neg fun e => hc (srcWatchZero_inj e)]
    · exact ⟨fun c _ => .refl c s⟩
  simp only [Machine.runActions]
  split
  · exact ⟨fun c hc => (h1.own c hc).trans ((Foreign.inhibits k _ _).own c hc)⟩
  · exact h1

theorem Foreign.setChannel (k : ChannelNo) (ch : Channel) (s : State) : Foreign k s (setChannel k ch s) :=
  ⟨fun c hc => ⟨by simp [hc], fun _ => rfl, rfl, rfl⟩⟩

theorem Foreign.receiveEvent (k : ChannelNo) (ev : SourceEvent) (s : State) : Foreign k s (receiveEvent k ev s) := by
  simp only [Machine.receiveEvent]
  split
  · exact .setChannel k _ s
  · split
    · exact ⟨fun c hc => ((Foreign.setChannel k _ s).own c hc).trans ((Foreign.runActions k ev _).own c hc)⟩
    · exact .setChannel k _ s
  · exact ⟨fun c _ => .refl c s⟩

theorem Foreign.receiveEvents (k : ChannelNo) (ev : SourceEvent) (n : Nat) (s : State) :
    Foreign k s (receiveEvents k ev n s) := by
  induction n generalizing s with
  | zero => exact ⟨fun c _ => .refl c s⟩
  | succ n ih =>
    simp only [Machine.receiveEvents]
    split
    · exact ⟨fun c hc => ((Foreign.receiveEvent k ev s).own c hc).trans ((ih _).own c hc)⟩
    · exact ⟨fun c _ => .refl c s⟩

/-! ### The counting of a channel rests on what it owns -/

theorem OwnEqual.setChannel {c : ChannelNo} {s t : State} (a : OwnEqual c s t) (ch : Channel) :
    OwnEqual c (setChannel c ch s) (setChannel c ch t) := ⟨by simp, a.holder, a.zero, a.levels⟩

theorem OwnEqual.inhibit {c : ChannelNo} {s t : State} (a : OwnEqual c s t) (h : Head) :
    OwnEqual c (inhibitHead c s h) (inhibitHead c t h) := by
  obtain ⟨r, e, _⟩ := inhibitHead_eq c s h
  obtain ⟨r', e', _⟩ := inhibitHead_eq c t h
  rw [e, e']
  refine ⟨a.channel, fun x => ?_, ?_, a.levels⟩
  · by_cases hx : x = h
    · subst hx; simp
    · simpa [hx] using a.holder x
  · rw [Tab.get_set_ne _ _ (srcHeadInhibited_ne_zero h c).symm, Tab.get_set_ne _ _ (srcHeadInhibited_ne_zero h c).symm]
    exact a.zero

theorem OwnEqual.inhibits {c : ChannelNo} (hs : List Head) {s t : State} (a : OwnEqual c s t) :
    OwnEqual c (hs.foldl (inhibitHead c) s) (hs.foldl (inhibitHead c) t) := by
  induction hs generalizing s t with
  | nil => exact a
  | cons h hs ih => exact ih (a.inhibit h)

theorem OwnEqual.raise {c : ChannelNo} {s t : State} (a : OwnEqual c s t) (d : Detail) :
    OwnEqual c (raiseSource (srcWatchZero c) d s) (raiseSource (srcWatchZero c) d t) := by
  refine ⟨by simpa using a.channel, fun h => by simpa using a.holder h, ?_, by simpa using a.levels⟩
  rw [raiseSource_pending, raiseSource_pending, if_pos rfl, if_pos rfl, afterRaise_congr a.levels a.zero]

theorem OwnEqual.runActions {c : ChannelNo} {s t : State} (a : OwnEqual c s t) (ev : SourceEvent) :
    OwnEqual c (runActions c ev s) (runActions c ev t) := by
  simp only [Machine.runActions, a.channel]
  have h1 : OwnEqual c
      (if actionNotifies (s.channels.get c).action then
        raiseSource (srcWatchZero c) (.watchZero c (s.channels.get c).count ev) s else s)
      (if actionNotifies (s.channels.get c).action then
        raiseSource (srcWatchZero c) (.watchZero c (s.channels.get c).count ev) t else t) := by
    split
    · exact a.raise _
    · exact a
  split
  · exact h1.inhibits _
  · exact h1

theorem OwnEqual.receiveEvent {c : ChannelNo} {s t : State} (a : OwnEqual c s t) (ev : SourceEvent) :
    OwnEqual c (receiveEvent c ev s) (receiveEvent c ev t) := by
  simp only [Machine.receiveEvent, a.channel]
  split
  · exact a.setChannel _
  · split
    · simp only [channelZero, a.channel]; exact (a.setChannel _).runActions ev
    · exact a.setChannel _
  · exact a

theorem OwnEqual.receiveEvents {c : ChannelNo} (ev : SourceEvent) (n : Nat) {s t : State} (a : OwnEqual c s t) :
    OwnEqual c (receiveEvents c ev n s) (receiveEvents c ev n t) := by
  induction n generalizing s t with
  | zero => exact a
  | succ n ih =>
    simp only [Machine.receiveEvents, a.channel]
    split
    · exact ih (a.receiveEvent ev)
    · exact a

/-! ### Heads that become held (R17, R140) -/

/-- Between `s` and `t` holders sets grew and HEAD_INHIBITED was raised for the heads that became held. -/
structure HeldStep (s t : State) : Prop where
  levels : t.notices.levels = s.notices.levels
  grows : ∀ h c, (s.heads.get h).inhibitHolders.get c = true → (t.heads.get h).inhibitHolders.get c = true
  inhibited : ∀ h, BecomesHeld h s t → ∃ c, (t.heads.get h).inhibitHolders.get c = true ∧
    t.notices.pending.get (srcHeadInhibited h) = afterRaise (srcHeadInhibited h) (.headInhibited c) s
  uninhibited : ∀ h, ¬BecomesHeld h s t →
    t.notices.pending.get (srcHeadInhibited h) = s.notices.pending.get (srcHeadInhibited h)

/-- A change that leaves the heads, the levels and the HEAD_INHIBITED sources. -/
theorem HeldStep.of_same {s t : State} (hl : t.notices.levels = s.notices.levels)
    (hh : ∀ h, (t.heads.get h).inhibitHolders = (s.heads.get h).inhibitHolders)
    (hp : ∀ h, t.notices.pending.get (srcHeadInhibited h) = s.notices.pending.get (srcHeadInhibited h)) : HeldStep s t := by
  refine ⟨hl, fun h c x => by rw [hh]; exact x, fun h x => ?_, fun h _ => hp h⟩
  obtain ⟨e, c, x⟩ := x
  rw [hh h, e c] at x; cases x

theorem HeldStep.refl (s : State) : HeldStep s s := .of_same rfl (fun _ => rfl) fun _ => rfl

theorem HeldStep.trans {s t u : State} (a : HeldStep s t) (b : HeldStep t u) : HeldStep s u := by
  have key : ∀ h, (BecomesHeld h s t ∧ ¬BecomesHeld h t u ∧ BecomesHeld h s u) ∨
      (¬BecomesHeld h s t ∧ (BecomesHeld h t u ↔ BecomesHeld h s u)) := by
    intro h
    by_cases ht : BecomesHeld h s t
    · left
      obtain ⟨e, c, x⟩ := ht
      exact ⟨⟨e, c, x⟩, fun y => (by rw [y.1 c] at x; cases x), e, c, b.grows h c x⟩
    · right
      refine ⟨ht, fun x => ⟨fun c => ?_, x.2⟩, fun x => ⟨fun c => ?_, x.2⟩⟩
      · by_contra y
        have := a.grows h c (by simpa using y)
        rw [x.1 c] at this; cases this
      · by_contra y
        exact ht ⟨x.1, c, by simpa using y⟩
  refine ⟨b.levels.trans a.levels, fun h c x => b.grows h c (a.grows h c x), fun h x => ?_, fun h x => ?_⟩
  · rcases key h with ⟨k1, k2, _⟩ | ⟨k1, k2⟩
    · obtain ⟨c, hc, e⟩ := a.inhibited h k1
      exact ⟨c, b.grows h c hc, (b.uninhibited h k2).trans e⟩
    · obtain ⟨c, hc, e⟩ := b.inhibited h (k2.2 x)
      exact ⟨c, hc, e.trans (afterRaise_congr a.levels (a.uninhibited h k1) _)⟩
  · rcases key h with ⟨_, _, k3⟩ | ⟨k1, k2⟩
    · exact absurd k3 x
    · exact (b.uninhibited h fun y => x (k2.1 y)).trans (a.uninhibited h k1)

/-- A head is held by no channel when its holders set is empty (R17). -/
theorem noHolders_iff (h : HeadRecord) : noHolders h = true ↔ ∀ c, h.inhibitHolders.get c = false := by
  unfold noHolders
  rw [Tab.items_eq]; simp

theorem HeldStep.inhibit (k : ChannelNo) (s : State) (h : Head) : HeldStep s (inhibitHead k s h) := by
  have hheads : (inhibitHead k s h).heads =
      s.heads.modify h fun r => { r with inhibitHolders := r.inhibitHolders.set k true } := by
    obtain ⟨r, e, _⟩ := inhibitHead_eq k s h; rw [e]
  have hlev : (inhibitHead k s h).notices.levels = s.notices.levels := by
    obtain ⟨r, e, _⟩ := inhibitHead_eq k s h; rw [e]
  have hpend : ∀ n, n ≠ srcHeadInhibited h →
      (inhibitHead k s h).notices.pending.get n = s.notices.pending.get n := by
    intro n hn; obtain ⟨r, e, _⟩ := inhibitHead_eq k s h; rw [e]; exact Tab.get_set_ne _ _ hn
  have hown : (inhibitHead k s h).notices.pending.get (srcHeadInhibited h) =
      if noHolders (s.heads.get h) then afterRaise (srcHeadInhibited h) (.headInhibited k) s
      else s.notices.pending.get (srcHeadInhibited h) := by
    simp only [inhibitHead]
    split
    · rw [raiseSource_pending, if_pos rfl]; rfl
    · rfl
  have hheld : ((inhibitHead k s h).heads.get h).inhibitHolders.get k = true := by rw [hheads]; simp
  refine ⟨hlev, fun x c e => ?_, fun x e => ?_, fun x e => ?_⟩
  · rw [hheads]
    by_cases hx : x = h
    · subst hx; rw [Tab.get_modify_self]; simp only [Tab.get_set]; split <;> simp_all
    · simpa [hx] using e
  · by_cases hx : x = h
    · subst hx
      exact ⟨k, hheld, by rw [hown, if_pos ((noHolders_iff _).2 e.1)]⟩
    · obtain ⟨e, c, y⟩ := e
      rw [hheads, Tab.get_modify_ne _ _ hx, e c] at y; cases y
  · by_cases hx : x = h
    · subst hx
      rw [hown, if_neg]
      intro y
      exact e ⟨(noHolders_iff _).1 y, k, hheld⟩
    · exact hpend _ fun y => hx (srcHeadInhibited_inj y)

theorem HeldStep.inhibits (k : ChannelNo) (hs : List Head) (s : State) : HeldStep s (hs.foldl (inhibitHead k) s) := by
  induction hs generalizing s with
  | nil => exact .refl s
  | cons h hs ih => exact (HeldStep.inhibit k s h).trans (ih _)

theorem HeldStep.raiseZero (c : ChannelNo) (d : Detail) (s : State) : HeldStep s (raiseSource (srcWatchZero c) d s) :=
  .of_same (by simp) (fun _ => by simp) fun h => by rw [raiseSource_pending, if_neg (srcHeadInhibited_ne_zero h c)]

theorem HeldStep.runActions (k : ChannelNo) (ev : SourceEvent) (s : State) : HeldStep s (runActions k ev s) := by
  have h1 : HeldStep s (if actionNotifies (s.channels.get k).action then
      raiseSource (srcWatchZero k) (.watchZero k (s.channels.get k).count ev) s else s) := by
    split
    · exact .raiseZero k _ s
    · exact .refl s
  simp only [Machine.runActions]
  split
  · exact h1.trans (.inhibits k _ _)
  · exact h1

theorem HeldStep.setChannel (k : ChannelNo) (ch : Channel) (s : State) : HeldStep s (setChannel k ch s) :=
  .of_same rfl (fun _ => rfl) fun _ => rfl

theorem HeldStep.receiveEvent (k : ChannelNo) (ev : SourceEvent) (s : State) : HeldStep s (receiveEvent k ev s) := by
  simp only [Machine.receiveEvent]
  split
  · exact .setChannel k _ s
  · split
    · exact (HeldStep.setChannel k _ s).trans (.runActions k ev _)
    · exact .setChannel k _ s
  · exact .refl s

theorem HeldStep.receiveEvents (k : ChannelNo) (ev : SourceEvent) (n : Nat) (s : State) :
    HeldStep s (receiveEvents k ev n s) := by
  induction n generalizing s with
  | zero => exact .refl s
  | succ n ih =>
    simp only [Machine.receiveEvents]
    split
    · exact (HeldStep.receiveEvent k ev s).trans (ih _)
    · exact .refl s

/-! ### The counting of all channels -/

theorem countList_own (ev : SourceEvent) (n : Nat) (cs : List ChannelNo) (hn : cs.Nodup) (s : State) (c : ChannelNo) :
    OwnEqual c (if c ∈ cs then receiveEvents c ev n s else s) (cs.foldl (fun s c => receiveEvents c ev n s) s) := by
  induction cs generalizing s with
  | nil => exact .refl c s
  | cons k cs ih =>
    obtain ⟨hk, hcs⟩ := List.nodup_cons.1 hn
    rw [List.foldl_cons]
    have h := ih hcs (receiveEvents k ev n s)
    by_cases hc : c = k
    · subst hc; simpa [hk] using h
    · have own := (Foreign.receiveEvents k ev n s).own c hc
      by_cases hm : c ∈ cs
      · simp only [hm, if_true, List.mem_cons, or_true] at h ⊢
        exact (own.receiveEvents ev n).trans h
      · simp only [hm, hc, if_false, List.mem_cons, or_self] at h ⊢
        exact own.trans h

/-- What a channel owns after the events of one movement is what it owns after taking them alone (R135). -/
theorem countEvents_own (ev : SourceEvent) (n : Nat) (s : State) (c : ChannelNo) :
    OwnEqual c (receiveEvents c ev n s) (countEvents ev n s) := by
  have h := countList_own ev n (numbers 8) (List.nodup_finRange 8) s c
  rwa [if_pos (mem_numbers c)] at h

theorem countEvents_held (ev : SourceEvent) (n : Nat) (s : State) : HeldStep s (countEvents ev n s) := by
  unfold countEvents
  generalize numbers 8 = cs
  induction cs generalizing s with
  | nil => exact .refl s
  | cons k cs ih => exact (HeldStep.receiveEvents k ev n s).trans (ih _)

/-- `t` takes what the counting of `moves` on `s` leaves: what each channel owns, and the heads that became held. -/
structure CountedStep (moves : List (SourceEvent × Nat)) (s t : State) : Prop where
  own : ∀ c, OwnEqual c (countedAlone moves s c) t
  held : HeldStep s t

theorem CountedStep.nil (s : State) : CountedStep [] s s := ⟨fun c => .refl c s, .refl s⟩

/-- A further movement, counted on the state that the earlier ones left. -/
theorem CountedStep.snoc {moves : List (SourceEvent × Nat)} {s t : State} (a : CountedStep moves s t) (ev : SourceEvent)
    (n : Nat) : CountedStep (moves ++ [(ev, n)]) s (countEvents ev n t) := by
  refine ⟨fun c => ?_, a.held.trans (countEvents_held ev n t)⟩
  simp only [countedAlone, List.foldl_append, List.foldl_cons, List.foldl_nil]
  exact ((a.own c).receiveEvents ev n).trans (countEvents_own ev n t c)

/-- A change that touches nothing of the watch channels' keeps the counting, behind or before it. -/
theorem CountedStep.congr {moves : List (SourceEvent × Nat)} {s t u : State} (a : CountedStep moves s t)
    (hc : u.channels = t.channels) (hh : ∀ h, (u.heads.get h).inhibitHolders = (t.heads.get h).inhibitHolders)
    (hl : u.notices.levels = t.notices.levels)
    (hp : ∀ n, n ∈ watchSources [] → u.notices.pending.get n = t.notices.pending.get n) : CountedStep moves s u := by
  refine ⟨fun c => (a.own c).trans ⟨by rw [hc], fun h => by rw [hh], hp _ (mem_watchSources_zero c []), hl⟩,
    a.held.trans (.of_same hl hh fun h => hp _ (mem_watchSources_inhibited h []))⟩

theorem CountedStep.countedAll {moves : List (SourceEvent × Nat)} {s t : State} (a : CountedStep moves s t) :
    CountedAll moves s t :=
  ⟨fun c => (a.own c).channel, fun h c => (a.own c).holder h, fun c => (a.own c).zero, a.held.inhibited, a.held.uninhibited⟩

/-- A state that takes its channels, heads and watch sources from the counting of `n` events on `u`, where `u` has those of
`s`, has counted them (R135). -/
theorem counted_of_countEvents {ev : SourceEvent} {n : Nat} {s u t : State} (hc : u.channels = s.channels)
    (hh : ∀ h, (u.heads.get h).inhibitHolders = (s.heads.get h).inhibitHolders) (hl : u.notices.levels = s.notices.levels)
    (hp : ∀ m, m ∈ watchSources [] → u.notices.pending.get m = s.notices.pending.get m)
    (ht : t.channels = (countEvents ev n u).channels) (hth : t.heads = (countEvents ev n u).heads)
    (htl : t.notices.levels = u.notices.levels)
    (htp : ∀ m, m ∈ watchSources [] → t.notices.pending.get m = (countEvents ev n u).notices.pending.get m) :
    Counted ev n s t :=
  ((((CountedStep.nil s).congr hc hh hl hp).snoc ev n).congr ht (fun h => by rw [hth])
    (htl.trans (countEvents_held ev n u).levels.symm) htp).countedAll

end Sys2Proof.Machine
end

