-- ==== Sys2Proof/Laws/Records.lean ====
section
/-! SUPPORT. What the movements of the open imprint table can do, each said once: finding a tag, choosing a tag, opening,
settling, forfeiting and cancelling a record, and the writings of the journal with their evaluations. -/

namespace Sys2Proof.Machine

open Sys2Proof.Config Sys2Proof.Safety

/-! ### The journal -/

/-- An entry written without a claim: the entry, near-full armed and JOURNAL_NEAR_FULL (R109, R113). -/
theorem writeFree_eq (kind : EntryKind) (p : Port) (i : EntryItems) (s : State) : ∃ armed r,
    writeFree kind p i s = { s with
      pool := { s.pool with movementSequence := (s.pool.movementSequence + 1) % 4294967296 }
      audit := { s.audit with
        journal := s.audit.journal ++ [entryNow kind p i s]
        accumulators := accumulate kind i s.audit.accumulators
        nearFullArmed := armed }
      notices := { s.notices with pending := s.notices.pending.set srcNearFull r } } ∧
    (r = s.notices.pending.get srcNearFull ∨ ∃ d, r = afterRaise srcNearFull d s) := by
  obtain ⟨b, r, e, h⟩ := evaluateNearFull_eq (writeEntry kind p i s)
  exact ⟨b, r, e, h⟩

/-- An entry written through a claim: the entry and the claim consumed (R108). -/
theorem writeClaimed_eq (kind : EntryKind) (p : Port) (i : EntryItems) (s : State) :
    writeClaimed kind p i s = { s with
      pool := { s.pool with movementSequence := (s.pool.movementSequence + 1) % 4294967296 }
      audit := { s.audit with
        journal := s.audit.journal ++ [entryNow kind p i s]
        accumulators := accumulate kind i s.audit.accumulators
        claimed := s.audit.claimed - 1 } } := rfl

/-! ### Tags (R10, R46) -/

/-- The slot that a tag names is the first in slot order whose open record holds it (R46). -/
theorem findTag_eq_some {tag : Nat} {s : State} {k : SlotNo} {o : OpenImprint} (h : findTag tag s = some (k, o)) :
    s.slots.get k = some o ∧ o.tag = tag := by
  obtain ⟨i, _, hi⟩ := List.exists_of_findSome?_eq_some h
  split at hi
  · rename_i o' ho
    split at hi
    · simp only [Option.some.injEq, Prod.mk.injEq] at hi
      obtain ⟨rfl, rfl⟩ := hi
      exact ⟨ho, ‹_›⟩
    · cases hi
  · cases hi

/-- The first slot that holds a tag is the one that the tag names. -/
theorem findTag_of_first {tag : Nat} {s : State} {k : SlotNo} {o : OpenImprint} (hk : s.slots.get k = some o)
    (ht : o.tag = tag) (hf : ∀ j o', j < k → s.slots.get j = some o' → o'.tag ≠ tag) : findTag tag s = some (k, o) := by
  unfold findTag
  rw [List.findSome?_eq_some_iff]
  refine ⟨(numbers 16).take k.val, k, (numbers 16).drop (k.val + 1), ?_, by simp [hk, ht], ?_⟩
  · conv_lhs => rw [← List.take_append_drop k.val (numbers 16)]
    rw [List.drop_eq_getElem_cons (by simp [numbers])]
    simp [numbers]
  · intro j hj
    have hjk : j < k := by
      rw [List.mem_take_iff_getElem] at hj
      obtain ⟨i, hi, e⟩ := hj
      simp only [numbers, List.getElem_finRange] at e
      rw [← e]
      simp only [Fin.lt_def, Fin.val_cast]
      omega
    cases hs : s.slots.get j with
    | none => rfl
    | some o' => simp [hf j o' hjk hs]

/-- The tags of the open records (R10). -/
theorem mem_openTags {s : State} {t : Nat} : t ∈ openTags s ↔ ∃ k o, s.slots.get k = some o ∧ o.tag = t := by
  unfold openTags
  rw [Tab.items_eq]
  simp only [List.mem_filterMap, List.mem_map, List.mem_finRange, true_and, Option.map_eq_some_iff]
  constructor
  · rintro ⟨_, ⟨k, rfl⟩, o, ho, rfl⟩; exact ⟨k, o, ho, rfl⟩
  · rintro ⟨k, o, ho, rfl⟩; exact ⟨_, ⟨k, rfl⟩, o, ho, rfl⟩

/-- The search for a tag passes only tags in use, and ends at the first that is not, or with its fuel spent (R10). -/
theorem chooseTag_spec (used : List Nat) : ∀ fuel t, ∃ i, i ≤ fuel ∧
    chooseTag used fuel t = Nat.repeat tagAfter i t ∧ (∀ j, j < i → Nat.repeat tagAfter j t ∈ used) ∧
    (i < fuel → chooseTag used fuel t ∉ used) := by
  intro fuel
  induction fuel with
  | zero => exact fun t => ⟨0, Nat.le_refl _, rfl, fun j hj => absurd hj (Nat.not_lt_zero _), fun h => absurd h (Nat.lt_irrefl _)⟩
  | succ fuel ih =>
    intro t
    unfold chooseTag
    split
    · rename_i h
      obtain ⟨i, hi, e, hp, hn⟩ := ih (tagAfter t)
      have comm : ∀ j, Nat.repeat tagAfter j (tagAfter t) = Nat.repeat tagAfter (j + 1) t := by
        intro j
        induction j with
        | zero => rfl
        | succ j ih => exact congrArg tagAfter ih
      refine ⟨i + 1, by omega, by rw [e, comm], fun j hj => ?_, fun hj => hn (by omega)⟩
      cases j with
      | zero => exact List.contains_iff_mem.1 h
      | succ j => rw [← comm]; exact hp j (by omega)
    · rename_i h
      exact ⟨0, by omega, rfl, fun j hj => absurd hj (Nat.not_lt_zero _), fun _ => by simpa using h⟩

/-! ### The movements of a record -/

/-- The reserve of a record, as one movement (R43). -/
theorem openRecord_eq (k : SlotNo) (o : OpenImprint) (s : State) : ∃ armed r,
    openRecord k o s = { s with
      pool := { s.pool with
        descending := s.pool.descending - o.total
        reservedTotal := s.pool.reservedTotal + o.total
        nextTag := tagAfter o.tag }
      heads := s.heads.modify o.head fun h => { h with
        headReserved := h.headReserved + o.total
        imprintNumber := imprintAfter h.imprintNumber }
      slots := s.slots.set k (some o)
      audit := { s.audit with claimed := s.audit.claimed + 1, nearFullArmed := armed }
      notices := { s.notices with pending := s.notices.pending.set srcNearFull r } } ∧
    (r = s.notices.pending.get srcNearFull ∨ ∃ d, r = afterRaise srcNearFull d s) := by
  unfold openRecord takeClaim
  obtain ⟨b, r, e, h⟩ := evaluateNearFull_eq (modAudit (fun a => { a with claimed := a.claimed + 1 })
    (setSlot k (some o)
      (modHead o.head (fun r => { r with
          headReserved := r.headReserved + o.total
          imprintNumber := imprintAfter r.imprintNumber })
        (modPool (fun p => { p with
          descending := p.descending - o.total
          reservedTotal := p.reservedTotal + o.total
          nextTag := tagAfter o.tag }) s))))
  exact ⟨b, r, e, h⟩

/-- The cancelling of a record, as one movement (R50). -/
theorem cancelRecord_eq (k : SlotNo) (o : OpenImprint) (s : State) : ∃ armed r,
    cancelRecord k o s = { s with
      pool := { s.pool with
        descending := s.pool.descending + o.total
        reservedTotal := s.pool.reservedTotal - o.total }
      heads := s.heads.modify o.head fun h => { h with
        headReserved := h.headReserved - o.total
        ring := pushRing o.tag .cancelled h.ring }
      slots := s.slots.set k none
      audit := { s.audit with claimed := s.audit.claimed - 1, nearFullArmed := armed }
      notices := { s.notices with pending := s.notices.pending.set srcNearFull r } } ∧
    (r = s.notices.pending.get srcNearFull ∨ ∃ d, r = afterRaise srcNearFull d s) := by
  unfold cancelRecord releaseClaim
  obtain ⟨b, r, e, h⟩ := evaluateNearFull_eq (modAudit (fun a => { a with claimed := a.claimed - 1 })
    (setSlot k none
      (modHead o.head (fun r => { r with
          headReserved := r.headReserved - o.total
          ring := pushRing o.tag .cancelled r.ring })
        (modPool (fun p => { p with
          descending := p.descending + o.total
          reservedTotal := p.reservedTotal - o.total }) s))))
  exact ⟨b, r, e, h⟩

/-- The settlement of a record at a charge, as one movement (R48, R53, R54). -/
theorem settle_eq (k : SlotNo) (o : OpenImprint) (kind : ClosureKind) (entry : EntryKind) (charge pieces residue : Nat)
    (s : State) :
    settle k o kind entry charge pieces residue s = { s with
      pool := { s.pool with
        descending := s.pool.descending + (o.total - charge)
        reservedTotal := s.pool.reservedTotal - o.total
        movementSequence := (s.pool.movementSequence + 1) % 4294967296 }
      heads := s.heads.modify o.head (settledHead o.tag kind o.total charge pieces residue)
      slots := s.slots.set k none
      audit := { s.audit with
        journal := s.audit.journal ++ [{
          sequence := s.pool.movementSequence, kind := entry, day := s.pool.day, port := headPort o.head
          head := some o.head, tag := some o.tag, pieces := some pieces, amount := charge
          returnedRemainder := some (o.total - charge), residueAfter := some residue
          descendingAfter := s.pool.descending + (o.total - charge) }]
        claimed := s.audit.claimed - 1
        accumulators := accumulate entry
          ⟨some o.head, some o.tag, some pieces, charge, some (o.total - charge), some residue⟩ s.audit.accumulators } } := rfl

/-- What a settlement makes of the head's record (R14, R15, R16). -/
theorem settledHead_eq (tag : Nat) (kind : ClosureKind) (total charge pieces residue : Nat) (h : HeadRecord) :
    settledHead tag kind total charge pieces residue h = { h with
      headReserved := h.headReserved - total
      ascending := h.ascending + charge
      usedToday := h.usedToday + charge
      residue := residue
      pieceCounter := if 99999999 < h.pieceCounter + pieces then h.pieceCounter + pieces - 100000000
        else h.pieceCounter + pieces
      wrapCount := if 99999999 < h.pieceCounter + pieces then min (h.wrapCount + 1) 255 else h.wrapCount
      ring := ((tag, kind) :: h.ring.filter fun e => decide (e.1 ≠ tag)).take 4 } := by
  unfold settledHead addPieces pushRing maxCount ringCapacity
  split <;> simp

end Sys2Proof.Machine
end

