-- ==== Sys2Proof/Tests/Slice0.lean ====
section
/-! SUPPORT. The author's tests: what WellFormed refuses, worked examples of the manual, and for every statement of
Obligations.lean that has hypotheses a state and operands that meet them all. -/

set_option maxRecDepth 20000

namespace Sys2Proof.Tests

open Sys2Proof Sys2Proof.Machine Sys2Proof.Config Sys2Proof.Safety

/-! ### States -/

/-- A request of port `p`, number 41. -/
def by_ (p : Port) : Req := ⟨p, 41, true⟩

/-- Class 5 of worked case 2.7: bulk letter, falling back to class 1. -/
def bulk : RateEntry := ⟨473, 250, .chopCarry, 500, some 1⟩
/-- Class 1 of worked case 2.7: standard letter. -/
def standard : RateEntry := ⟨685, 0, .halfUp, 1, none⟩

/-- Head 2's open record of worked case 2.7, in slot 0. -/
def record : OpenImprint := ⟨77, 2, 9, 212, ⟨5, 1200, bulk, some standard, 82450⟩, none, 82450, 60, false⟩

/-- The site of worked case 2.7 in service, with a stock entry, a pending withdrawal of class 12 and a REFILLS channel. -/
def site : State :=
  { State.reset with
    pool := { coldPool with
      descending := 417550, reservedTotal := 82450, fundedTotal := 500000, ceiling := 600000, licence := 40172655
      day := 212, nextTag := 78, lastVoucher := 3 }
    heads := State.reset.heads.modify 2 fun h => { h with residue := 7, headReserved := 82450, imprintNumber := 10 }
    slots := State.reset.slots.set 0 (some record)
    rates := ((State.reset.rates.set 5 ⟨some bulk, none⟩).set 1 ⟨some standard, none⟩).set 12
      ⟨some standard, some ⟨213, none⟩⟩
    stock := State.reset.stock.set 3 ⟨.active 50, 100, 100, 0, 0, false, none⟩
    audit := { coldAudit with claimed := 1 }
    channels := State.reset.channels.set 1 { coldChannel with state := .running, source := .refills, count := 2, reload := 2 }
    service := ⟨.inService, none, false, false, false⟩ }

/-- `s` with request `c` of `q` waiting in its slot. -/
def asked (c : Instr) (q : Req) (s : State) : State :=
  { s with links := s.links.modify q.port fun l => { l with slot := some (.command c) } }

/-- A request alone in the slots, with no handed expiry and no search under way, is at its turn. -/
theorem test_alone_is_ready (c : Instr) (q : Req) (s : State) (hr : s.resetHeld = false) (hs : s.search = .fresh)
    (hl : ∀ p, (s.links.get p).slot = none) (hh : ∀ k, isHanded (s.slots.get k) = false) : Ready c q (asked c q s) := by
  have key : ∀ p, ((asked c q s).links.get p).slot.isSome = decide (p = q.port) := by
    intro p; by_cases h : p = q.port <;> simp [asked, h, hl]
  refine ⟨hr, ⟨.command c, by simp [asked], by simp [slotCarries]⟩, ?_⟩
  have none_handed : (asked c q s).slots.first isHanded = none := Tab.first_eq_none.2 hh
  have find : ∀ ps : List Port, q.port ∈ ps → firstWaiting (asked c q s) ps = some q.port := by
    intro ps h
    have : (fun p => ((asked c q s).links.get p).slot.isSome) = fun p => decide (p = q.port) := funext key
    rw [firstWaiting, this]
    induction ps with
    | nil => simp at h
    | cons a ps ih =>
      by_cases ha : a = q.port
      · simp [ha]
      · simp only [List.find?_cons, ha, decide_false]
        exact ih (by simpa [Ne.symm ha, eq_comm, ha] using h)
  have nofind : ∀ ps : List Port, q.port ∉ ps → firstWaiting (asked c q s) ps = none := by
    intro ps h
    simp only [firstWaiting, List.find?_eq_none, key]
    intro p hp; simp; rintro rfl; exact h hp
  have fresh : (asked c q s).search = .fresh := hs
  simp only [nextTurn, fresh, freshTurn, waitingAbove, waitingBelow]
  by_cases hlt : (asked c q s).lastServed < q.port
  · rw [find _ (by simp [hlt])]
  · rw [nofind _ (by simp [hlt]), none_handed]
    rw [find _ (by simpa using hlt)]
    rfl

/-- Any request asked of the site is at its turn. -/
theorem test_site_is_ready (c : Instr) (q : Req) : Ready c q (asked c q site) :=
  test_alone_is_ready c q site rfl rfl (by decide) (by decide)

/-! ### What WellFormed refuses -/

theorem test_wellFormed_status : (Instr.status 0 2).wellFormed = false := by decide
theorem test_wellFormed_headRead : (Instr.headRead (by_ 0) 256).wellFormed = false := by decide
theorem test_wellFormed_setLimits : (Instr.setLimits (by_ 7) (.value (256 ^ 5)) .leave .leave).wellFormed = false ∧
    (Instr.setLimits (by_ 7) .leave (.value (256 ^ 5)) .leave).wellFormed = false ∧
    (Instr.setLimits (by_ 7) .leave .leave (.value (256 ^ 5))).wellFormed = false := by decide
theorem test_wellFormed_setHead : (Instr.setHead (by_ 6) 256 .leave .leave .leave).wellFormed = false ∧
    (Instr.setHead (by_ 6) 0 .leave (.value 65536) .leave).wellFormed = false ∧
    (Instr.setHead (by_ 6) 0 .leave .leave (.value (256 ^ 5))).wellFormed = false := by decide
theorem test_wellFormed_commission : (Instr.commission (by_ 7) (256 ^ 4) 1 1).wellFormed = false ∧
    (Instr.commission (by_ 7) 1 (256 ^ 5) 1).wellFormed = false ∧
    (Instr.commission (by_ 7) 1 1 (256 ^ 5)).wellFormed = false := by decide
theorem test_wellFormed_reserve : (Instr.reserve ⟨0, 1, false⟩ ⟨2, 1, 5, 1, 0, 0⟩).wellFormed = false ∧
    (Instr.reserve (by_ 0) ⟨256, 1, 5, 1, 0, 0⟩).wellFormed = false ∧
    (Instr.reserve (by_ 0) ⟨2, 256, 5, 1, 0, 0⟩).wellFormed = false ∧
    (Instr.reserve (by_ 0) ⟨2, 1, 256, 1, 0, 0⟩).wellFormed = false ∧
    (Instr.reserve (by_ 0) ⟨2, 1, 5, 65536, 0, 0⟩).wellFormed = false ∧
    (Instr.reserve (by_ 0) ⟨3, 2, 5, 1, 256, 0⟩).wellFormed = false ∧
    (Instr.reserve (by_ 0) ⟨3, 2, 5, 1, 0, 65536⟩).wellFormed = false ∧
    (Instr.reserve (by_ 0) ⟨2, 1, 5, 1, 6, 0⟩).wellFormed = false := by decide
theorem test_wellFormed_commit : (Instr.commit ⟨0, 1, false⟩ ⟨2, 1, 1, 0⟩).wellFormed = false ∧
    (Instr.commit (by_ 0) ⟨256, 1, 1, 0⟩).wellFormed = false ∧ (Instr.commit (by_ 0) ⟨2, 65536, 1, 0⟩).wellFormed = false ∧
    (Instr.commit (by_ 0) ⟨2, 1, 65536, 0⟩).wellFormed = false ∧ (Instr.commit (by_ 0) ⟨3, 1, 1, 65536⟩).wellFormed = false ∧
    (Instr.commit (by_ 0) ⟨2, 1, 1, 1⟩).wellFormed = false := by decide
theorem test_wellFormed_cancel : (Instr.cancel (by_ 0) 65536).wellFormed = false := by decide
theorem test_wellFormed_listOpen : (Instr.listOpen (by_ 6) (some 256)).wellFormed = false := by decide
theorem test_wellFormed_compare : (Instr.compare (by_ 0) 256 1 1 .any).wellFormed = false ∧
    (Instr.compare (by_ 0) 1 256 1 .any).wellFormed = false ∧ (Instr.compare (by_ 0) 1 1 65536 .any).wellFormed = false ∧
    (Instr.compare (by_ 0) 1 1 1 (.value 256)).wellFormed = false := by decide
theorem test_wellFormed_rates : (Instr.rateRead (by_ 0) 256).wellFormed = false ∧
    (Instr.setRate (by_ 7) 256 ⟨1, 0, .known .halfUp, 1, none⟩ 0).wellFormed = false ∧
    (Instr.setRate (by_ 7) 1 ⟨256 ^ 3, 0, .known .halfUp, 1, none⟩ 0).wellFormed = false ∧
    (Instr.setRate (by_ 7) 1 ⟨1, 256 ^ 3, .known .halfUp, 1, none⟩ 0).wellFormed = false ∧
    (Instr.setRate (by_ 7) 1 ⟨1, 0, .known .halfUp, 65536, none⟩ 0).wellFormed = false ∧
    (Instr.setRate (by_ 7) 1 ⟨1, 0, .known .halfUp, 1, some 256⟩ 0).wellFormed = false ∧
    (Instr.setRate (by_ 7) 1 ⟨1, 0, .known .halfUp, 1, none⟩ (256 ^ 4)).wellFormed = false ∧
    (Instr.withdrawRate (by_ 7) 256 0).wellFormed = false ∧
    (Instr.withdrawRate (by_ 7) 1 (256 ^ 4)).wellFormed = false := by decide
theorem test_wellFormed_credit : (Instr.refill (by_ 7) (256 ^ 4) 1 1).wellFormed = false ∧
    (Instr.refill (by_ 7) 1 (256 ^ 4) 1).wellFormed = false ∧ (Instr.refill (by_ 7) 1 1 (256 ^ 4)).wellFormed = false ∧
    (Instr.returnCredit (by_ 7) (256 ^ 5)).wellFormed = false ∧ (Instr.refillLogRead (by_ 7) 256 1).wellFormed = false ∧
    (Instr.refillLogRead (by_ 7) 0 256).wellFormed = false := by decide
theorem test_wellFormed_stock : (Instr.stockDefine (by_ 6) 256 1).wellFormed = false ∧
    (Instr.stockDefine (by_ 6) 0 (256 ^ 3)).wellFormed = false ∧ (Instr.stockRetire (by_ 6) 256).wellFormed = false ∧
    (Instr.stockReceive (by_ 6) 256 1).wellFormed = false ∧ (Instr.stockReceive (by_ 6) 0 (256 ^ 4)).wellFormed = false ∧
    (Instr.stockIssue (by_ 6) 256 1).wellFormed = false ∧ (Instr.stockIssue (by_ 6) 0 (256 ^ 4)).wellFormed = false ∧
    (Instr.stockSpoil (by_ 6) 256 1).wellFormed = false ∧ (Instr.stockSpoil (by_ 6) 0 (256 ^ 4)).wellFormed = false ∧
    (Instr.stockCount (by_ 6) 256 1).wellFormed = false ∧ (Instr.stockCount (by_ 6) 0 (256 ^ 4)).wellFormed = false ∧
    (Instr.stockClearMismatch (by_ 7) 256).wellFormed = false ∧ (Instr.stockRead (by_ 0) 256).wellFormed = false := by
  decide
theorem test_wellFormed_logs : (Instr.journalRead (by_ 7) 65536 1).wellFormed = false ∧
    (Instr.journalRead (by_ 7) 0 256).wellFormed = false ∧ (Instr.journalAck (by_ 7) 65536).wellFormed = false ∧
    (Instr.dayClose (by_ 6) (256 ^ 4)).wellFormed = false ∧ (Instr.dayLogRead (by_ 6) (.position 256)).wellFormed = false := by
  decide
theorem test_wellFormed_watch : (Instr.watchSet (by_ 7) 256 ⟨.unknown, [], 1, .unknown, .unknown, []⟩ .unknown).wellFormed = false ∧
    (Instr.watchSet (by_ 7) 0 ⟨.unknown, [8], 1, .unknown, .unknown, []⟩ .unknown).wellFormed = false ∧
    (Instr.watchSet (by_ 7) 0 ⟨.unknown, [], 256, .unknown, .unknown, []⟩ .unknown).wellFormed = false ∧
    (Instr.watchSet (by_ 7) 0 ⟨.unknown, [], 1, .unknown, .unknown, [8]⟩ .unknown).wellFormed = false ∧
    (Instr.watchSet (by_ 7) 0 ⟨.unknown, [], 1, .unknown, .unknown, []⟩ (.known (.load 65536))).wellFormed = false ∧
    (Instr.watchRelease (by_ 7) 256).wellFormed = false ∧ (Instr.watchRead (by_ 7) 256).wellFormed = false ∧
    (Instr.watchChannelZero 0 (.day 0)).wellFormed = false ∧ (Instr.watchChannelZero 0 (.day (256 ^ 4))).wellFormed = false ∧
    (Instr.watchChannelZero 0 (.pieces 0 0)).wellFormed = false ∧
    (Instr.watchChannelZero 0 (.pieces 0 65536)).wellFormed = false ∧
    (Instr.watchChannelZero 0 (.refill 0)).wellFormed = false ∧
    (Instr.watchChannelZero 0 (.refill (256 ^ 4))).wellFormed = false := by decide
theorem test_wellFormed_notices : (Instr.noticeHold (by_ 0) 65536).wellFormed = false ∧
    (Instr.noticeLevel (by_ 0) 256 1).wellFormed = false ∧ (Instr.noticeLevel (by_ 0) 1 256).wellFormed = false := by decide

/-! ### Worked examples of the manual -/

/-- 2.7: the lane reserve of 1,200 pieces of class 5 is 82,450 cents. -/
theorem test_reserve_of_bulk_batch : laneReserve bulk (some standard) 1200 = 82450 := by decide
/-- 2.7: the commit of 1,137 pieces charges 54,030 cents and leaves residue 8. -/
theorem test_commit_of_bulk_batch : workLane record.laneA 1137 7 = ⟨.cls, 54030, 8⟩ := by decide
/-- 4.7, step 2: 200 pieces at 1,187 r.u. reserve 23,740 cents. -/
theorem test_reserve_of_large_letters : laneReserve ⟨1187, 0, .chopCarry, 1, none⟩ none 200 = 23740 := by decide
/-- 4.7, step 5: 197 pieces at 1,187 r.u. with residue 5 charge 23,384 cents and leave residue 4. -/
theorem test_commit_of_large_letters : entryCharge ⟨1187, 0, .chopCarry, 1, none⟩ (197 * 1187) 5 = (23384, 4) := by decide
/-- 2.1: the largest lane reserve is 999,999,000 cents. -/
theorem test_largest_lane_reserve : laneReserve ⟨999999, 99999, .halfUp, 1, none⟩ none 9999 = 999999000 := by decide
/-- 12.6: the frame of head 2's RESERVE, and what it is read back as. -/
theorem test_reserve_frame : reserveFrame 41 ⟨2, 1, 5, 1200, 0, 0⟩ = [2, 16, 41, 1, 5, 4, 176, 0] ∧
    parseReserve [2, 16, 41, 1, 5, 4, 176, 0] = ⟨2, 1, 5, 1200, 0, 0⟩ := by decide
/-- R177: the reply NONE to a TAKE_NOTICE has 2 groups, the sources pending in byte 4 and the top in byte 5. -/
theorem test_none_frame : replyFrame ⟨.none, 9, clearFlags, .noNotice 3 5⟩ = [2, 1, 9, 0, 3, 5, 0, 0] := by decide
/-- R173: a READ of 9 bytes of that frame reads 0 beyond its end, and one of 3 bytes stops there. -/
theorem test_read_bytes : readBytes ⟨.none, 9, clearFlags, .noNotice 3 5⟩ (.bytes 9) = [2, 1, 9, 0, 3, 5, 0, 0, 0] ∧
    readBytes ⟨.none, 9, clearFlags, .noNotice 3 5⟩ (.bytes 3) = [2, 1, 9] := by decide
/-- R177: the detail of IMPRINT_EXPIRED starts at byte 10 with the tag and the imprint number. -/
theorem test_notice_frame : (replyFrame ⟨.ok, 9, clearFlags, .notice ⟨8, 5, 5, 1, .imprintExpired 258 65538, 0, 5⟩⟩).take
    16 = [7, 0, 9, 0, 8, 5, 5, 1, 0, 5, 1, 2, 1, 0, 2, 0] := by decide
/-- R176: every reply frame opens with its length, its reply code, the request number and the flags. -/
theorem test_frame_header : (replyFrame ⟨.ok, 9, ⟨true, false, true, false⟩, .holdCount 3⟩).drop 1 =
    [0, 9, 5] ++ replyBytes ⟨.ok, 9, ⟨true, false, true, false⟩, .holdCount 3⟩ := rfl
/-- R175: codes, roles and reply numbers. -/
theorem test_roles : roleAllows 0 16 = true ∧ roleAllows 6 16 = false ∧ roleAllows 7 48 = true ∧ roleAllows 6 48 = false ∧
    roleAllows 6 82 = true ∧ roleAllows 5 96 = false ∧ roleAllows 7 96 = true ∧ roleAllows 3 8 = false ∧
    replyNumber .duplicate = 2 ∧ replyNumber .condition = 46 := by decide

/-- The site with the handed expiries of two records of head 2, and port 4 served last. -/
def twoDue : State :=
  { site with
    slots := (site.slots.set 0 (some { record with handed := true })).set 1 (some { record with tag := 76, handed := true })
    lastServed := 4 }

/-- The next state of a command on a state, when there is one. -/
def next (c : Instr) (s : State) : State :=
  match exec c s with
  | .next t => t
  | _ => s

/-- What port `p`'s reply slot holds after a command on a state. -/
def answer (p : Port) (c : Instr) (s : State) : Option (ReplyCode × ReplyBody) :=
  ((next c s).links.get p).reply.map fun r => (r.code, r.body)

/-- 2.7 through the engine: the commit of 1,137 pieces leaves descending 445,970, residue 8 and slot 0 FREE. -/
theorem test_commit_step : (next (.commit (by_ 2) ⟨2, 77, 1137, 0⟩) site).pool.descending = 445970 ∧
    ((next (.commit (by_ 2) ⟨2, 77, 1137, 0⟩) site).heads.get 2).residue = 8 ∧
    (next (.commit (by_ 2) ⟨2, 77, 1137, 0⟩) site).slots.get 0 = none := by decide
/-- R50: a cancel returns the whole reserve. -/
theorem test_cancel_step : (next (.cancel (by_ 2) 77) site).pool.descending = 500000 ∧
    (next (.cancel (by_ 2) 77) site).audit.claimed = 0 := by decide
/-- R46: a second head's commit is answered NOT_OWNER. -/
theorem test_commit_not_owner : ((next (.commit (by_ 1) ⟨2, 77, 1, 0⟩) site).links.get 1).reply.map Reply.code =
    some .notOwner := by decide
/-- R80: the next voucher raises descending and counts one refill on channel 1. -/
theorem test_refill_step : (next (.refill (by_ 7) 4 1000 40172655) site).pool.descending = 418550 ∧
    ((next (.refill (by_ 7) 4 1000 40172655) site).channels.get 1).count = 1 := by decide
/-- R78: the last voucher sent again is answered DUPLICATE. -/
theorem test_refill_duplicate : ((next (.refill (by_ 7) 3 1000 40172655) site).links.get 7).reply.map Reply.code =
    some .duplicate := by decide
/-- R70: a close applies the withdrawal due on the new day. -/
theorem test_close_step : (next (.dayClose (by_ 6) 212) site).pool.day = 213 ∧
    (next (.dayClose (by_ 6) 212) site).rates.get 12 = ⟨none, none⟩ := by decide
/-- R54: a restart charges the open record whole. -/
theorem test_restart_step : (next (.restart false false) site).pool.descending = 417550 ∧
    ((next (.restart false false) site).heads.get 2).ascending = 82450 := by decide
/-- R167: a restart under an open cabinet ends in LOCKDOWN, also when the supply is low. -/
theorem test_restart_tamper : (next (.restart true true) site).service.state = .lockdown ∧
    (next (.restart false true) site).service.state = .halted := by decide
/-- R171: a frame sent while BUSY is discarded. -/
theorem test_overrun_step :
    ((next (.send 2 [1, 1, 42, 0]) (asked (.cancel (by_ 2) 77) (by_ 2) site)).links.get 2).overrun = true := by decide
/-- R172: a RESERVE of 17 groups is answered FORMAT by the link, whatever the state of the part, and waits for no turn. -/
theorem test_long_command :
    ((next (.reserve (by_ 2) ⟨17, 1, 5, 1, 0, 0⟩) State.reset).links.get 2).reply.map Reply.code = some .format ∧
    (next (.reserve (by_ 2) ⟨17, 1, 5, 1, 0, 0⟩) State.reset).lastServed = 7 := by decide
/-- R174: a frame that arrives between two handed expiries waits for the second. -/
theorem test_expiries_in_turn : nextTurn (asked (.poolRead (by_ 5)) (by_ 5)
    (next (.holdExpiry 0) (twoDue))) = some (.expiry 1) := by decide
/-- R172: a frame of 3 bytes is answered FORMAT. -/
theorem test_short_frame : ((next (.send 2 [1, 1, 42]) site).links.get 2).reply.map Reply.code = some .format := by decide

/-! ### Witnesses: for every statement with hypotheses, a state and operands that meet them all -/

/-- The site with request `c` of port `p` waiting at its turn. -/
abbrev at_ (p : Port) (c : Req → Instr) (s : State := site) : State := asked (c (by_ p)) (by_ p) s

/-- The site's record one second before its hold ends, with the expiry of it handed when `handed`. -/
def dueSite (hold : Nat) (handed : Bool) : State :=
  { site with slots := site.slots.set 0 (some { record with holdRemaining := hold, handed := handed }) }

/-- The site in another service state. -/
def siteIn (v : Service) : State := { site with service := v }

theorem test_witness_StepTakesFrontCommand : State.reset.pending = [] ∧
    ({ State.reset with pending := [.timeBaseSecond] } : State).pending = [.timeBaseSecond] := ⟨rfl, rfl⟩

theorem test_witness_RequestTurn : requestHeader (.poolRead (by_ 0)) = some (by_ 0) ∧
    ({ site with resetHeld := true } : State).resetHeld = true ∧
    (site.resetHeld = false ∧ (site.links.get 0).slot = none ∧ MaySend 0 (requestCode (.poolRead (by_ 0)))) ∧
    (requestHeader (.unlock (by_ 0)) = some (by_ 0) ∧ ¬MaySend 0 (requestCode (.unlock (by_ 0)))) ∧
    (((at_ 1 .poolRead (at_ 0 .poolRead)).links.get 1).slot = some (.command (.poolRead (by_ 1))) ∧
      slotCarries (.command (.poolRead (by_ 1))) (.poolRead (by_ 1)) (by_ 1) = true ∧
      nextTurn (at_ 1 .poolRead (at_ 0 .poolRead)) ≠ some (.request 1)) ∧
    (((at_ 0 .poolRead).links.get 0).slot = some (.command (.poolRead (by_ 0))) ∧
      slotCarries (.command (.poolRead (by_ 0))) (.serviceRead (by_ 0)) (by_ 0) = false) ∧
    (requestGroups (.reserve (by_ 0) ⟨0, 0, 0, 0, 0, 0⟩) = some 0 ∧ requestGroups (.commit (by_ 6) ⟨17, 1, 1, 0⟩) = some 17 ∧
      requestGroups (.reserve (by_ 0) ⟨16, 0, 0, 0, 0, 0⟩) = some 16 ∧ MaySend 0 16) := by decide

/-- The rotation: a request above the last-served port, a handed expiry at port 0 in the middle of a search, a request up to
the last-served port, an empty rotation, and the two places of a search under way with and without what they look for. -/
theorem test_witness_rotation : site.search = .fresh ∧ site.lastServed = 7 ∧
    (({ site with lastServed := 0 } : State).lastServed < (1 : Port) ∧ ((at_ 1 .poolRead).links.get 1).slot.isSome = true) ∧
    (isHanded (twoDue.slots.get 0) = true ∧ ∀ p, (twoDue.links.get p).slot.isSome = false) ∧
    ((7 : Port) ≤ site.lastServed ∧ ((at_ 7 .poolRead).links.get 7).slot.isSome = true) ∧
    (∀ k, isHanded (site.slots.get k) = false) ∧
    ((next (.holdExpiry 0) twoDue).search = .atExpiries ∧ isHanded ((next (.holdExpiry 0) twoDue).slots.get 1) = true) ∧
    ((next (.holdExpiry 1) (next (.holdExpiry 0) (at_ 4 .poolRead twoDue))).search = .pastExpiries ∧
      ((at_ 4 .poolRead twoDue).links.get 4).slot.isSome = true) := by decide

theorem test_witness_StatusAndRead : site.resetHeld = false ∧ (site.links.get 0).reply = none ∧
    ({ site with resetHeld := true } : State).resetHeld = true ∧
    (((next (.unlock (by_ 0)) site).resetHeld = false) ∧
      ((next (.unlock (by_ 0)) site).links.get 0).reply = some ⟨.role, 41, clearFlags, .none⟩) ∧
    4 * replyLength ⟨.role, 41, clearFlags, .none⟩ = 4 := by decide

/-- R177: the last bytes of the longest detail, and a day at the top of its width. -/
theorem test_notice_layout :
    (replyFrame ⟨.ok, 9, clearFlags, .notice ⟨7, 2, 2, 0, .watchZero 7 65536 (.day 4294967295), 0, 2⟩⟩).drop 8 =
      [0, 2, 7, 0, 1, 0, 0, 255, 255, 255, 255, 0, 0, 0, 0, 0, 0, 0, 0, 0] ∧
    (replyFrame ⟨.ok, 9, clearFlags, .notice ⟨22, 2, 2, 0, .refillAccepted 1 2 3, 0, 2⟩⟩).drop 8 =
      [0, 2, 0, 0, 0, 1, 0, 0, 0, 2, 0, 0, 0, 0, 3, 0, 0, 0, 0, 0] := by decide

theorem test_witness_notice_reply :
    detailFields (.stockMismatch 31 99999999 0 212) = [(1, 31), (4, 99999999), (4, 0), (4, 212)] ∧
    detailSize (.stockMismatch 31 99999999 0 212) = 13 ∧ 99999999 < 256 ^ 4 ∧
    detailSize (.portFault .role none) = 3 ∧ detailSize (.portFault .role (some 9)) = 3 := by decide

theorem test_witness_SendTaken : site.resetHeld = false ∧ ([1, 1, 42, 0] : List Byte) ≠ [] ∧
    ((at_ 2 .poolRead).links.get 2).slot.isSome = true ∧ lengthFits [1, 1, 42] = false ∧
    MaySend 2 1 ∧ ¬MaySend 2 48 ∧ lengthFits ((17 : Byte) :: List.replicate 67 0) = false ∧ lengthFits ((16 : Byte) :: List.replicate 63 0) = true := by decide

theorem test_witness_RaiseAndAttention :
    sourceLevel (setLevel 20 0 site.notices) srcLowCredit = 0 ∧
    (sourceLevel site.notices srcLowCredit ≠ 0 ∧ site.notices.pending.get srcLowCredit = none) ∧
    (raiseSource srcLowCredit (.lowCredit 1 2) site).notices.pending.get srcLowCredit = some ⟨0, .lowCredit 1 2⟩ ∧
    sourceLevel (raiseSource srcLowCredit (.lowCredit 1 2) site).notices srcLowCredit ≠ 0 ∧
    (64 ≤ 512 - site.audit.journal.length - site.audit.claimed) := by decide

theorem test_witness_LowCreditEvaluation : requestHeader (.poolRead (by_ 0)) = some (by_ 0) ∧
    Ready (.poolRead (by_ 0)) (by_ 0) (at_ 0 .poolRead) ∧
    exec (.poolRead (by_ 0)) (at_ 0 .poolRead) = .next (next (.poolRead (by_ 0)) (at_ 0 .poolRead)) ∧
    (next (.poolRead (by_ 0)) (at_ 0 .poolRead)).service.state ≠ .blank ∧
    (next (.poolRead (by_ 0)) (at_ 0 .poolRead State.reset)).service.state = .blank ∧
    Ready (.noticeLevel (by_ 7) 32 1) (by_ 7) (at_ 7 (.noticeLevel · 32 1)) ∧
    (((next (.noticeLevel (by_ 7) 32 1) (at_ 7 (.noticeLevel · 32 1))).links.get 7).reply.map Reply.code = some .format) :=
  ⟨rfl, test_site_is_ready _ _, rfl, by decide, by decide, test_site_is_ready _ _, by decide⟩

theorem test_witness_PoolReadReply : Ready (.poolRead (by_ 0)) (by_ 0) (at_ 0 .poolRead) ∧ (by_ 0).fits = true :=
  ⟨test_site_is_ready _ _, rfl⟩

/-- A request of port `p` whose body has the wrong shape. -/
def misshapen (p : Port) : Req := ⟨p, 41, false⟩

/-- R11, R19, R56, R110, R111, R116, R126, R156: the FORMAT refusals of the reads and of FAULT_ENABLE and JOURNAL_ACK. -/
theorem test_read_refusals :
    answer 0 (.poolRead (misshapen 0)) site = some (.format, .none) ∧
    answer 0 (.headRead (by_ 0) 6) site = some (.format, .none) ∧
    answer 0 (.headRead (misshapen 0) 5) site = some (.format, .none) ∧
    answer 0 (.listOpen (by_ 0) (some 0)) site = some (.format, .none) ∧
    answer 6 (.listOpen (by_ 6) (some 6)) site = some (.format, .none) ∧
    answer 7 (.journalRead (by_ 7) 512 1) site = some (.format, .none) ∧
    answer 6 (.refillLogRead (by_ 6) 32 1) site = some (.format, .none) ∧
    (answer 6 (.dayLogRead (by_ 6) (.position 16)) site).map Prod.fst = some .format ∧
    (answer 6 (.dayLogRead (by_ 6) .unrecognised) site).map Prod.fst = some .format ∧
    answer 3 (.faultEnable (by_ 3) .leave .leave .leave .unrecognised) site = some (.format, .none) ∧
    answer 7 (.journalAck (by_ 7) 513) site = some (.format, .none) ∧
    answer 7 (.journalAck (by_ 7) 512) site = some (.count, .unacknowledged 0) := by decide

theorem test_witness_misshapen : (misshapen 0).fits = false ∧
    Ready (.poolRead (misshapen 0)) (misshapen 0) (asked (.poolRead (misshapen 0)) (misshapen 0) site) ∧
    Ready (.headRead (by_ 0) 6) (by_ 0) (at_ 0 (.headRead · 6)) ∧
    Ready (.listOpen (by_ 0) (some 0)) (by_ 0) (at_ 0 (.listOpen · (some 0))) ∧ portHead 0 ≠ none ∧
    Ready (.faultEnable (by_ 3) .leave .leave .leave .unrecognised) (by_ 3)
      (at_ 3 (.faultEnable · .leave .leave .leave .unrecognised)) :=
  ⟨rfl, test_site_is_ready _ _, test_site_is_ready _ _, test_site_is_ready _ _, by decide, test_site_is_ready _ _⟩

theorem test_witness_HeadReadReply : Ready (.headRead (by_ 6) 5) (by_ 6) (at_ 6 (.headRead · 5)) :=
  test_site_is_ready _ _

theorem test_witness_ServiceReadReply : Ready (.serviceRead (by_ 0)) (by_ 0) (at_ 0 .serviceRead) :=
  test_site_is_ready _ _

theorem test_witness_TableReadReplies : Ready (.rateRead (by_ 0) 63) (by_ 0) (at_ 0 (.rateRead · 63)) ∧
    Ready (.stockRead (by_ 0) 31) (by_ 0) (at_ 0 (.stockRead · 31)) ∧ (site.stock.get 31).state = .unused ∧
    (site.stock.get 3).state = .active 50 ∧ Ready (.watchRead (by_ 0) 7) (by_ 0) (at_ 0 (.watchRead · 7)) :=
  ⟨test_site_is_ready _ _, test_site_is_ready _ _, rfl, rfl, test_site_is_ready _ _⟩

theorem test_witness_ListOpenReply : Ready (.listOpen (by_ 2) none) (by_ 2) (at_ 2 (.listOpen · none)) ∧
    portHead 2 = some 2 ∧ Ready (.listOpen (by_ 6) (some 5)) (by_ 6) (at_ 6 (.listOpen · (some 5))) ∧
    portHead 6 = none ∧ Ready (.listOpen (by_ 7) none) (by_ 7) (at_ 7 (.listOpen · none)) :=
  ⟨test_site_is_ready _ _, rfl, test_site_is_ready _ _, rfl, test_site_is_ready _ _⟩

theorem test_witness_CompareReply : Ready (.compare (by_ 2) 5 1 9999 .own) (by_ 2) (at_ 2 (.compare · 5 1 9999 .own)) ∧
    Ready (.compare (by_ 2) 5 1 1 (.value 9)) (by_ 2) (at_ 2 (.compare · 5 1 1 (.value 9))) ∧
    Ready (.compare (by_ 6) 5 1 1 .any) (by_ 6) (at_ 6 (.compare · 5 1 1 .any)) ∧
    portHead 2 = some 2 ∧ (site.heads.get 2).residue = 7 ∧
    priceLane site.rates 5 9999 = .ok ⟨5, 9999, bulk, some standard, 685182⟩ ∧
    priceLane site.rates 1 9999 = .ok ⟨1, 9999, standard, none, 684932⟩ ∧
    priceLane site.rates 5 1 = .ok ⟨5, 1, bulk, some standard, 319⟩ ∧
    priceLane site.rates 1 1 = .ok ⟨1, 1, standard, none, 69⟩ :=
  ⟨test_site_is_ready _ _, test_site_is_ready _ _, test_site_is_ready _ _, rfl, rfl, rfl, rfl, rfl, rfl⟩

theorem test_witness_LogReadReplies : Ready (.journalRead (by_ 7) 511 255) (by_ 7) (at_ 7 (.journalRead · 511 255)) ∧
    Ready (.refillLogRead (by_ 6) 31 255) (by_ 6) (at_ 6 (.refillLogRead · 31 255)) ∧
    Ready (.dayLogRead (by_ 6) (.position 15)) (by_ 6) (at_ 6 (.dayLogRead · (.position 15))) ∧
    Ready (.dayLogRead (by_ 6) .current) (by_ 6) (at_ 6 (.dayLogRead · .current)) :=
  ⟨test_site_is_ready _ _, test_site_is_ready _ _, test_site_is_ready _ _, test_site_is_ready _ _⟩

theorem test_witness_FaultRequests : Ready (.faultRead (by_ 3)) (by_ 3) (at_ 3 .faultRead) ∧
    Ready (.clearFault (by_ 3)) (by_ 3) (at_ 3 .clearFault) ∧
    Ready (.faultEnable (by_ 3) .leave .enable .disable .leave) (by_ 3) (at_ 3 (.faultEnable · .leave .enable .disable .leave)) ∧
    EnableChoice.leave ≠ .unrecognised ∧ EnableChoice.enable ≠ .unrecognised ∧ EnableChoice.disable ≠ .unrecognised :=
  ⟨test_site_is_ready _ _, test_site_is_ready _ _, test_site_is_ready _ _, by decide, by decide, by decide⟩

theorem test_witness_SetLimitsApplied :
    Ready (.setLimits (by_ 7) (.value 500000) (.value 9999999999) .leave) (by_ 7)
      (at_ 7 (.setLimits · (.value 500000) (.value 9999999999) .leave)) ∧
    Ready (.setLimits (by_ 7) .leave .leave (.value 0)) (by_ 7) (at_ 7 (.setLimits · .leave .leave (.value 0))) ∧
    site.service.state = .inService ∧ site.pool.descending + site.pool.reservedTotal = 500000 :=
  ⟨test_site_is_ready _ _, test_site_is_ready _ _, rfl, rfl⟩

theorem test_witness_SetHeadApplied :
    Ready (.setHead (by_ 6) 5 (.value false) (.value 4) (.value 9999999999)) (by_ 6)
      (at_ 6 (.setHead · 5 (.value false) (.value 4) (.value 9999999999))) ∧
    Ready (.setHead (by_ 6) 0 .leave (.value 601) .absent) (by_ 6) (at_ 6 (.setHead · 0 .leave (.value 601) .absent)) ∧
    site.service.state = .inService := ⟨test_site_is_ready _ _, test_site_is_ready _ _, rfl⟩

/-- The site with tag 77's record settled, so that nothing is open. -/
def emptySite : State := { site with slots := Tab.fill 16 none }

/-- The site in lockdown, with the tamper level active or not, and RETENTION_FAULT in service at the funding port or not. -/
def lockedSite (tamper alarm : Bool) : State :=
  modNoticePort 7 (fun x => { x with stack := if alarm then [10] else [] })
    (siteIn ⟨.lockdown, some .inService, tamper, false, false⟩)

/-- R160, R161: with the tamper level active, a hard alarm in service or one pending, neither request is accepted. -/
theorem test_condition_refusals :
    answer 7 (.unlock (by_ 7)) (lockedSite true false) = some (.condition, .condition true []) ∧
    answer 7 (.unlock (by_ 7)) (lockedSite false true) = some (.condition, .condition false [33]) ∧
    answer 7 (.unlock (by_ 7)) (lockedSite false false) = some (.ok, .unlocked .inService) ∧
    answer 7 (.unlock (by_ 7)) site = some (.state, .none) ∧
    answer 7 (.commission (by_ 7) 1 1 0) (raiseSource 32 (.alarm 0 .blank) State.reset) =
      some (.condition, .condition false [32]) ∧
    answer 7 (.commission (by_ 7) 1 1 10000000000) State.reset = some (.format, .none) ∧
    answer 7 (.commission (by_ 7) 1 1 0) site = some (.state, .none) := by decide

theorem test_witness_condition : Ready (.unlock (by_ 7)) (by_ 7) (at_ 7 .unlock (lockedSite true false)) ∧
    ConditionStands (lockedSite true false) ∧ ConditionStands (lockedSite false true) ∧ ¬ConditionStands (lockedSite false false) ∧
    StandingList (lockedSite false true).notices [33] :=
  ⟨test_alone_is_ready _ _ _ rfl rfl (by decide) (by decide), by decide, by decide, by decide, ⟨by decide, by decide⟩⟩

theorem test_witness_CommissionAndUnlock :
    Ready (.commission (by_ 7) 99999999 9999999999 0) (by_ 7) (at_ 7 (.commission · 99999999 9999999999 0) State.reset) ∧
    State.reset.service.state = .blank ∧ State.reset.service.tamperActive = false ∧
    (∀ n : SourceNo, n = 32 ∨ n = 33 ∨ n = 34 → ¬AlarmStands State.reset.notices n) ∧
    Ready (.unlock (by_ 7)) (by_ 7) (at_ 7 .unlock (siteIn ⟨.lockdown, some .inService, false, false, false⟩)) ∧
    (∀ n : SourceNo, n = 32 ∨ n = 33 ∨ n = 34 → ¬AlarmStands site.notices n) :=
  ⟨test_alone_is_ready _ _ _ rfl rfl (by decide) (by decide), rfl, rfl, by decide, test_alone_is_ready _ _ _ rfl rfl (by decide) (by decide),
    by decide⟩

/-- R12, R18, R34, R64, R68: the refusals of the configuration and COMPARE requests at the edges of their ranges. -/
theorem test_configuration_refusals :
    answer 7 (.setLimits (by_ 7) (.value 499999) .leave .leave) site = some (.ceiling, .none) ∧
    answer 7 (.setLimits (by_ 7) .leave .leave (.value 10000000000)) site = some (.format, .none) ∧
    answer 6 (.setHead (by_ 6) 6 .leave .leave .leave) site = some (.format, .none) ∧
    answer 7 (.setRate (by_ 7) 64 ⟨1, 0, .known .halfUp, 1, none⟩ 0) site = some (.format, .formatLine 2) ∧
    answer 7 (.setRate (by_ 7) 5 ⟨1, 0, .known .halfUp, 1, some 5⟩ 0) site = some (.format, .formatLine 7) ∧
    answer 2 (.compare (by_ 2) 5 1 10000 .own) site = some (.format, .none) ∧
    answer 2 (.compare (by_ 2) 1 63 1 .any) site = some (.unsetRate, .side .b) ∧
    (answer 7 (.withdrawRate (by_ 7) 64 0) site).map Prod.fst = some .format ∧ answer 0 (.rateRead (by_ 0) 64) site = some (.format, .none) ∧
    answer 0 (.stockRead (by_ 0) 32) site = some (.format, .none) ∧
    answer 0 (.watchRead (by_ 0) 8) site = some (.format, .none) := by decide

theorem test_witness_RateChanges :
    Ready (.setRate (by_ 7) 63 ⟨999999, 99999, .known .halfUp, 9999, some 0⟩ 212) (by_ 7)
      (at_ 7 (.setRate · 63 ⟨999999, 99999, .known .halfUp, 9999, some 0⟩ 212)) ∧
    Ready (.setRate (by_ 7) 0 ⟨1, 0, .known .chopCarry, 1, none⟩ 213) (by_ 7)
      (at_ 7 (.setRate · 0 ⟨1, 0, .known .chopCarry, 1, none⟩ 213)) ∧
    Ready (.withdrawRate (by_ 7) 12 0) (by_ 7) (at_ 7 (.withdrawRate · 12 0)) ∧ site.pool.day = 212 ∧
    site.service.state = .inService :=
  ⟨test_site_is_ready _ _, test_site_is_ready _ _, test_site_is_ready _ _, rfl, rfl⟩

theorem test_witness_StockTableRequests :
    Ready (.stockDefine (by_ 6) 31 99999) (by_ 6) (at_ 6 (.stockDefine · 31 99999)) ∧ (site.stock.get 31).state = .unused ∧
    Ready (.stockRetire (by_ 6) 3) (by_ 6) (at_ 6 (.stockRetire · 3)
      { site with stock := site.stock.set 3 ⟨.active 50, 0, 7, 7, 0, false, none⟩ }) ∧
    Ready (.stockCount (by_ 6) 3 99999999) (by_ 6) (at_ 6 (.stockCount · 3 99999999)) ∧
    (site.stock.get 3).state ≠ .unused ∧ (site.stock.get 3).onHand = 100 ∧
    Ready (.stockCount (by_ 6) 3 100) (by_ 6) (at_ 6 (.stockCount · 3 100)) ∧
    Ready (.stockClearMismatch (by_ 7) 3) (by_ 7) (at_ 7 (.stockClearMismatch · 3)) :=
  ⟨test_site_is_ready _ _, rfl, test_alone_is_ready _ _ _ rfl rfl (by decide) (by decide), test_site_is_ready _ _, by decide, rfl,
    test_site_is_ready _ _, test_site_is_ready _ _⟩

/-- R93, R94, R99: the refusals of the stock table requests. -/
theorem test_stock_table_refusals :
    answer 6 (.stockDefine (by_ 6) 3 1) site = some (.entry, .entryState (.active 50)) ∧
    answer 6 (.stockDefine (by_ 6) 32 1) site = some (.format, .none) ∧
    answer 6 (.stockRetire (by_ 6) 3) site = some (.notEmpty, .entryOnHand 100) ∧
    answer 6 (.stockRetire (by_ 6) 4) site = some (.entry, .entryState .unused) ∧
    (answer 6 (.stockCount (by_ 6) 4 0) site).map Prod.fst = some .entry ∧
    answer 6 (.stockCount (by_ 6) 3 100000000) site = some (.format, .none) := by decide

/-- Control fields of a PIECES channel. -/
def fields : ControlFields := ⟨.known .pieces, [0, 5], 100, .known .onFirst, .known .noticeInhibit, [5]⟩

theorem test_witness_WatchRequests :
    Ready (.watchSet (by_ 6) 7 fields (.known (.load 65535))) (by_ 6) (at_ 6 (.watchSet · 7 fields (.known (.load 65535)))) ∧
    Ready (.watchSet (by_ 7) 1 fields (.known (.load 0))) (by_ 7) (at_ 7 (.watchSet · 1 fields (.known (.load 0)))) ∧
    Ready (.watchSet (by_ 7) 1 fields (.known .stop)) (by_ 7) (at_ 7 (.watchSet · 1 fields (.known .stop))) ∧
    Ready (.watchSet (by_ 7) 3 fields (.known .none)) (by_ 7) (at_ 7 (.watchSet · 3 fields (.known .none))) ∧
    (site.channels.get 7).state = .unloaded ∧ (site.channels.get 1).state = .running ∧
    Ready (.watchRelease (by_ 6) 4) (by_ 6) (at_ 6 (.watchRelease · 4)) :=
  ⟨test_site_is_ready _ _, test_site_is_ready _ _, test_site_is_ready _ _, test_site_is_ready _ _, rfl, rfl,
    test_site_is_ready _ _⟩

theorem test_witness_carries : Carries fields ⟨.pieces, maskSet [0, 5], .hundred, .onFirst, .noticeInhibit, maskSet [5]⟩ :=
  ⟨rfl, ⟨by decide, by decide⟩, Or.inr ⟨rfl, rfl, rfl⟩, rfl, rfl, ⟨by decide, by decide⟩⟩

/-- R130, R141: the answers to a channel above 7, to another port's channel, and to fields that line 4 refuses. -/
theorem test_watch_refusals :
    FieldsRefused { fields with source := .known .days } (.known .stop) ∧ FieldsRefused { fields with headMask := [6] } (.known .none) ∧
    answer 7 (.watchSet (by_ 7) 8 fields (.known .stop)) site = some (.format, .none) ∧
    answer 7 (.watchSet (by_ 7) 4 { fields with prescale := 10 } (.known .stop)) site = some (.notOwner, .none) ∧
    answer 6 (.watchRelease (by_ 6) 3) site = some (.notOwner, .none) ∧
    answer 7 (.watchSet (by_ 7) 3 { fields with inhibitMask := [6] } (.known .stop)) site = some (.format, .none) ∧
    answer 7 (.watchSet (by_ 7) 3 { fields with source := .known .days } (.known .none)) site = some (.format, .none) :=
  ⟨by simp [FieldsRefused, fields], by simp [FieldsRefused, fields], by decide, by decide, by decide, by decide, by decide⟩

theorem test_witness_NoticeSettings : Ready (.noticeHold (by_ 7) 255) (by_ 7) (at_ 7 (.noticeHold · 255)) ∧
    Ready (.noticeNesting (by_ 7) (.known true)) (by_ 7) (at_ 7 (.noticeNesting · (.known true))) ∧
    ((modNoticePort 4 (fun x => { x with holdCount := 1 }) site).notices.ports.get 4).holdCount = 1 :=
  ⟨test_site_is_ready _ _, test_site_is_ready _ _, rfl⟩

/-- R147, R151, R152: the refusals of the notice settings. -/
theorem test_notice_refusals :
    answer 0 (.noticeHold (by_ 0) 256) site = some (.format, .none) ∧
    answer 0 (.noticeNesting (by_ 0) .unknown) site = some (.format, .none) ∧
    answer 7 (.noticeLevel (by_ 7) 32 1) site = some (.format, .none) ∧
    answer 7 (.noticeLevel (by_ 7) 31 16) site = some (.format, .none) ∧
    answer 7 (.noticeLevel (by_ 7) 30 15) site = some (.notOwner, .none) := by decide

theorem test_witness_NoticeLevelApplied : Ready (.noticeLevel (by_ 7) 31 15) (by_ 7) (at_ 7 (.noticeLevel · 31 15)) ∧
    sourceDest 31 = 7 ∧ Ready (.noticeLevel (by_ 6) 20 0) (by_ 6) (at_ 6 (.noticeLevel · 20 0)) ∧ sourceDest 20 = 6 :=
  ⟨test_site_is_ready _ _, rfl, test_site_is_ready _ _, rfl⟩

/-- The site with STOCK_MISMATCH and TAMPER pending at the funding port. -/
def raisedSite : State := raiseSource 32 (.alarm 212 .inService) (raiseSource 23 (.stockMismatch 3 1 100 212) site)

theorem test_witness_TakeNoticeChooses : Ready (.takeNotice (by_ 7)) (by_ 7) (at_ 7 .takeNotice raisedSite) ∧
    sourceDest 32 = 7 ∧ raisedSite.notices.pending.get 32 = some ⟨0, .alarm 212 .inService⟩ ∧
    stackTop (raisedSite.notices.ports.get 7).stack < sourceLevel raisedSite.notices 32 ∧
    (∀ m, m ≠ 32 → sourceDest m = 7 → (raisedSite.notices.pending.get m).isSome = true →
      sourceLevel raisedSite.notices m < sourceLevel raisedSite.notices 32 ∨
        (sourceLevel raisedSite.notices m = sourceLevel raisedSite.notices 32 ∧ 32 < m)) ∧
    Ready (.takeNotice (by_ 6)) (by_ 6) (at_ 6 .takeNotice) ∧
    (∀ m, sourceDest m = 6 → (site.notices.pending.get m).isSome = true →
      sourceLevel site.notices m ≤ stackTop (site.notices.ports.get 6).stack) :=
  ⟨test_alone_is_ready _ _ _ (by decide) (by decide) (by decide) (by decide), rfl, by decide, by decide, by decide, test_site_is_ready _ _,
    by decide⟩

/-- LOW_CREDIT pending and armed below the threshold, for the clauses on what LOW_CREDIT becomes when it is taken. -/
theorem test_witness_low_credit_taken :
    Ready (.takeNotice (by_ 6)) (by_ 6) (at_ 6 .takeNotice (raiseSource 20 (.lowCredit 1 2) site)) ∧ sourceDest 20 = 6 ∧
    (raiseSource 20 (.lowCredit 1 2) site).notices.pending.get 20 = some ⟨0, .lowCredit 1 2⟩ ∧
    (next (.takeNotice (by_ 6)) (at_ 6 .takeNotice (raiseSource 20 (.lowCredit 1 2) site))).notices.pending.get 20 = none :=
  ⟨test_alone_is_ready _ _ _ (by decide) (by decide) (by decide) (by decide), rfl, by decide, by decide⟩

theorem test_witness_NoticeDonePops :
    Ready (.noticeDone (by_ 7)) (by_ 7) (at_ 7 .noticeDone
      (modNoticePort 7 (fun x => { x with stack := [9, 2] }) (siteIn ⟨.halted, none, false, false, true⟩))) ∧
    ((modNoticePort 7 (fun x => { x with stack := [9, 2] }) (siteIn ⟨.halted, none, false, false, true⟩)).notices.ports.get
      7).stack = [9, 2] ∧ (9 ∉ [2] ∧ 10 ∉ [2] ∧ 11 ∉ [2]) ∧
    Ready (.noticeDone (by_ 6)) (by_ 6) (at_ 6 .noticeDone) ∧ (site.notices.ports.get 6).stack = [] :=
  ⟨test_alone_is_ready _ _ _ (by decide) (by decide) (by decide) (by decide), rfl, by decide, test_site_is_ready _ _, rfl⟩

theorem test_witness_LaneReserve : (site.rates.get 0).active = none ∧ (site.rates.get 5).active = some bulk ∧
    bulk.fallback = some 1 ∧ (site.rates.get 1).active = some standard ∧ standard.fallback = none ∧
    (0 < standard.minimum ∧ standard.minimum ≤ 1) ∧ (State.reset.rates.get 1).active = none := by decide

/-- R23: lanes A and B of one request, with the lane that fails. -/
theorem test_lanes : ((5 : ClassNo).val = 5 ∧ (1 : ClassNo).val = 1) ∧
    priceLanes site.rates ⟨3, 2, 63, 1, 1, 1⟩ = .error (.unsetRate, .a) ∧
    priceLanes site.rates ⟨3, 2, 5, 1, 63, 1⟩ = .error (.unsetRate, .b) ∧
    priceLanes site.rates ⟨2, 1, 5, 1, 63, 1⟩ = .ok (⟨5, 1, bulk, some standard, 319⟩, none) := by decide

theorem test_witness_LaneCharge :
    record.laneA.fallbackCopy = some standard ∧ record.laneA.classCopy = bulk ∧ bulk.minimum ≤ 500 ∧ 499 < bulk.minimum ∧
    bulk.rounding = .chopCarry ∧ standard.rounding = .halfUp := by decide

theorem test_witness_ChargeWithinReserve : RecordPriced record ∧ 1200 ≤ record.laneA.pieces ∧ record.laneB = none := by
  refine ⟨⟨?_, ?_, by decide⟩, by decide, rfl⟩
  · unfold LanePriced; decide
  · intro l h; cases h

/-- One request for each kind of refusal of a RESERVE: STATE, FORMAT, UNSET_RATE, FUNDS and an accepted one. -/
theorem test_witness_ReserveRefusalOrder :
    Ready (.reserve (by_ 2) ⟨2, 1, 5, 1200, 0, 0⟩) (by_ 2) (at_ 2 (.reserve · ⟨2, 1, 5, 1200, 0, 0⟩)) ∧ portHead 2 = some 2 ∧
    Ready (.reserve (by_ 2) ⟨2, 1, 5, 1200, 0, 0⟩) (by_ 2) (at_ 2 (.reserve · ⟨2, 1, 5, 1200, 0, 0⟩) State.reset) ∧
    Ready (.reserve (by_ 0) ⟨3, 1, 5, 1200, 0, 0⟩) (by_ 0) (at_ 0 (.reserve · ⟨3, 1, 5, 1200, 0, 0⟩)) ∧
    Ready (.reserve (by_ 5) ⟨2, 1, 63, 9999, 0, 0⟩) (by_ 5) (at_ 5 (.reserve · ⟨2, 1, 63, 9999, 0, 0⟩)) ∧
    portHead 0 = some 0 ∧ portHead 5 = some 5 :=
  ⟨test_site_is_ready _ _, rfl, test_alone_is_ready _ _ _ rfl rfl (by decide) (by decide), test_site_is_ready _ _,
    test_site_is_ready _ _, rfl, rfl⟩

/-- R155: with its class disabled a refusal is answered and not recorded; enabled, it is. -/
theorem test_refusal_classes :
    ((next (.reserve (by_ 5) ⟨2, 1, 63, 9999, 0, 0⟩) site).links.get 5).fault.code = some .unsetRate ∧
    ((next (.reserve (by_ 5) ⟨2, 1, 63, 9999, 0, 0⟩) (modLink 5 (fun l =>
      { l with fault := { l.fault with unsetRateEnabled := false } }) site)).links.get 5).fault.code = none := by decide

theorem test_witness_ReserveOpensRecord :
    Ready (.reserve (by_ 2) ⟨2, 1, 5, 9999, 0, 0⟩) (by_ 2) (at_ 2 (.reserve · ⟨2, 1, 5, 9999, 0, 0⟩)
      { site with pool := { site.pool with descending := 685182 } }) ∧
    portHead 2 = some 2 ∧ site.service.state = .inService ∧ (site.heads.get 2).enabled = true ∧
    (∀ c, (site.heads.get 2).inhibitHolders.get c = false) ∧
    priceLanes site.rates ⟨2, 1, 5, 9999, 0, 0⟩ = .ok (⟨5, 9999, bulk, some standard, 685182⟩, none) ∧
    headOpenCount 2 site < 4 ∧ site.slots.get 1 = none ∧ (∀ j : SlotNo, j < 1 → (site.slots.get j).isSome = true) ∧
    site.audit.journal.length + site.audit.claimed < 512 ∧ (site.heads.get 2).dailyCap = none ∧
    priceLanes site.rates ⟨3, 2, 5, 1, 1, 1⟩ =
      .ok (⟨5, 1, bulk, some standard, 319⟩, some ⟨1, 1, standard, none, 69⟩) :=
  ⟨test_alone_is_ready _ _ _ rfl rfl (by decide) (by decide), rfl, rfl, rfl, by decide, rfl, by decide, rfl, by decide,
    by decide, rfl, rfl⟩

theorem test_witness_CommitSettles : Ready (.commit (by_ 2) ⟨2, 77, 1200, 0⟩) (by_ 2) (at_ 2 (.commit · ⟨2, 77, 1200, 0⟩)) ∧
    portHead 2 = some 2 ∧ site.service.state ≠ .blank ∧ site.slots.get 0 = some record ∧ record.tag = 77 ∧ record.head = 2 ∧
    record.laneB = none ∧ 1200 ≤ record.laneA.pieces :=
  ⟨test_site_is_ready _ _, rfl, by decide, rfl, rfl, rfl, rfl, by decide⟩

/-- The site with the ring of head 1 holding tag 70 as EXPIRED. -/
def ringSite : State := modHead 1 (fun h => { h with ring := [(71, .committed), (70, .expired)] }) site

/-- The refusals of COMMIT and CANCEL: another head's tag, a closed tag, an unknown tag, EXCEEDS by one piece, and a lane too
many. -/
theorem test_witness_commit_refusals :
    Ready (.commit (by_ 1) ⟨2, 70, 1, 0⟩) (by_ 1) (at_ 1 (.commit · ⟨2, 70, 1, 0⟩) ringSite) ∧ portHead 1 = some 1 ∧
    (ringSite.heads.get 1).ring[1]? = some (70, .expired) ∧ (∀ k, ((ringSite.slots.get k).all fun o => o.tag ≠ 70) = true) ∧
    (∀ e ∈ (site.heads.get 1).ring, e.1 ≠ 65535) ∧
    Ready (.cancel (by_ 1) 77) (by_ 1) (at_ 1 (.cancel · 77) ringSite) ∧ Names 77 0 record ringSite ∧ record.head ≠ 1 ∧
    Ready (.commit (by_ 2) ⟨2, 77, 1201, 0⟩) (by_ 2) (at_ 2 (.commit · ⟨2, 77, 1201, 0⟩)) ∧ record.laneA.pieces < 1201 ∧
    Ready (.commit (by_ 2) ⟨3, 77, 1, 1⟩) (by_ 2) (at_ 2 (.commit · ⟨3, 77, 1, 1⟩)) ∧
    Ready (.cancel (by_ 1) 65535) (by_ 1) (at_ 1 (.cancel · 65535)) :=
  ⟨test_alone_is_ready _ _ _ rfl rfl (by decide) (by decide), rfl, rfl, by decide, by decide,
    test_alone_is_ready _ _ _ rfl rfl (by decide) (by decide), ⟨rfl, rfl, fun j o' h _ => absurd h (Fin.not_lt_zero j)⟩,
    by decide, test_site_is_ready _ _, by decide, test_site_is_ready _ _, test_site_is_ready _ _⟩

/-- R46: the answers to those requests. -/
theorem test_commit_refusals :
    ((next (.commit (by_ 1) ⟨2, 70, 1, 0⟩) ringSite).links.get 1).reply.map (fun r => (r.code, r.body)) =
      some (.tooLate, .closedAs .expired) ∧
    ((next (.cancel (by_ 1) 65535) ringSite).links.get 1).reply.map Reply.code = some .noSuchTag ∧
    ((next (.commit (by_ 2) ⟨2, 77, 1201, 0⟩) site).links.get 2).reply.map (fun r => (r.code, r.body)) =
      some (.exceeds, .lane .a) := by decide

theorem test_witness_CancelReturnsReserve : Ready (.cancel (by_ 2) 77) (by_ 2) (at_ 2 (.cancel · 77)) ∧
    portHead 2 = some 2 ∧ site.service.state ≠ .blank ∧ site.slots.get 0 = some record :=
  ⟨test_site_is_ready _ _, rfl, by decide, rfl⟩

theorem test_witness_RefillRefusalOrder :
    Ready (.refill (by_ 7) 3 5 40172655) (by_ 7) (at_ 7 (.refill · 3 5 40172655)
      { site with audit := { coldAudit with refillLog := [⟨3, 500000, 212, 500000⟩] } }) ∧ site.pool.lastVoucher = 3 ∧
    Ready (.refill (by_ 7) 5 5 40172655) (by_ 7) (at_ 7 (.refill · 5 5 40172655)) ∧
    Ready (.refill (by_ 7) 4 100001 40172655) (by_ 7) (at_ 7 (.refill · 4 100001 40172655)) :=
  ⟨test_alone_is_ready _ _ _ rfl rfl (by decide) (by decide), rfl, test_site_is_ready _ _, test_site_is_ready _ _⟩

/-- R78: the DUPLICATE reply carries the voucher as the refill log has it, and DIFFERENT for another amount. -/
theorem test_duplicate_body :
    ((next (.refill (by_ 7) 3 5 1) { site with audit := { coldAudit with refillLog := [⟨3, 500000, 212, 600000⟩] } }).links.get
      7).reply.map Reply.body = some (.duplicate 500000 212 600000 false) := by decide

theorem test_witness_RefillAccepted : Ready (.refill (by_ 7) 4 100000 40172655) (by_ 7)
      (at_ 7 (.refill · 4 100000 40172655)) ∧
    site.service.state = .inService ∧ site.pool.lastVoucher + 1 = 4 ∧ site.pool.licence = 40172655 ∧
    site.pool.descending + site.pool.reservedTotal + 100000 ≤ site.pool.ceiling ∧
    site.audit.journal.length + site.audit.claimed < 512 :=
  ⟨test_site_is_ready _ _, rfl, rfl, rfl, by decide, by decide⟩

theorem test_witness_CreditReturned :
    Ready (.returnCredit (by_ 7) 417550) (by_ 7) (at_ 7 (.returnCredit · 417550)) ∧ site.pool.descending = 417550 ∧
    Ready (.decommission (by_ 7)) (by_ 7) (at_ 7 .decommission { site with slots := Tab.fill 16 none }) ∧
    (∀ k, ({ site with slots := Tab.fill 16 none } : State).slots.get k = none) :=
  ⟨test_site_is_ready _ _, rfl, test_alone_is_ready _ _ _ rfl rfl (by decide) (by decide), by decide⟩

/-- R85, R86: the refusals of RETURN_CREDIT and DECOMMISSION, with the figures they carry. -/
theorem test_return_refusals :
    answer 7 (.returnCredit (by_ 7) 417551) site = some (.funds, .descendingFound 417550) ∧
    answer 7 (.returnCredit (by_ 7) 10000000000) site = some (.format, .none) ∧
    answer 7 (.decommission (by_ 7)) site = some (.openImprints, .openSlots 1) ∧
    answer 7 (.decommission (by_ 7)) { emptySite with audit := { coldAudit with claimed := 512 } } = some (.journalFull, .none) := by
  decide

/-- The site with a credit floor of 400,000 cents. -/
def floorSite : State := { site with pool := { site.pool with floor := some 400000 } }

/-- R7, R95, R97: a receive that would leave less than the floor is refused FLOOR, one cent less is taken; FUNDS, STOCK_LIMIT,
ENTRY and SHORT with the figures they carry. -/
theorem test_stock_refusals :
    answer 6 (.stockReceive (by_ 6) 3 352) floorSite = some (.floor, .stockFloor 17600 417550 400000) ∧
    (answer 6 (.stockReceive (by_ 6) 3 351) floorSite).map Prod.fst = some .ok ∧
    answer 6 (.stockReceive (by_ 6) 3 8352) floorSite = some (.funds, .stockFunds 417600 417550) ∧
    answer 6 (.stockReceive (by_ 6) 3 99999900) site = some (.stockLimit, .entryReceived 100) ∧
    answer 6 (.stockReceive (by_ 6) 4 1) site = some (.entry, .entryState .unused) ∧
    answer 6 (.stockReceive (by_ 6) 3 1) (siteIn ⟨.halted, none, false, false, false⟩) = some (.state, .none) ∧
    answer 6 (.stockIssue (by_ 6) 3 101) site = some (.short, .entryOnHand 100) ∧
    answer 6 (.stockSpoil (by_ 6) 32 1) site = some (.format, .none) := by decide

theorem test_witness_StockMovements : Ready (.stockReceive (by_ 6) 3 8351) (by_ 6) (at_ 6 (.stockReceive · 3 8351)) ∧
    (site.stock.get 3).state = .active 50 ∧ 8351 * 50 ≤ site.pool.descending ∧ site.pool.floor = none ∧
    Ready (.stockIssue (by_ 6) 3 100) (by_ 6) (at_ 6 (.stockIssue · 3 100)) ∧ 100 ≤ (site.stock.get 3).onHand ∧
    Ready (.stockSpoil (by_ 6) 3 1) (by_ 6) (at_ 6 (.stockSpoil · 3 1)) :=
  ⟨test_site_is_ready _ _, rfl, by decide, rfl, test_site_is_ready _ _, by decide, test_site_is_ready _ _⟩

theorem test_witness_JournalAckAndNearFull : Ready (.journalAck (by_ 7) 0) (by_ 7) (at_ 7 (.journalAck · 0)) ∧
    Ready (.journalAck (by_ 7) 1) (by_ 7) (at_ 7 (.journalAck · 1)) ∧ site.audit.journal.length = 0 ∧
    site.audit.nearFullArmed = true ∧
    512 - site.audit.journal.length - ({ site with audit := { site.audit with claimed := 481 } } : State).audit.claimed = 31 ∧
    site.audit.journal.length ≤ 512 :=
  ⟨test_site_is_ready _ _, test_site_is_ready _ _, rfl, rfl, rfl, by decide⟩

/-- R118, R119: a close that names another day, the day before included, is refused with the current day, and the last day
is never closed. -/
theorem test_close_refusals :
    answer 6 (.dayClose (by_ 6) 211) site = some (.wrongDay, .currentDay 212) ∧
    answer 6 (.dayClose (by_ 6) 212) (next (.dayClose (by_ 6) 212) site) = some (.wrongDay, .currentDay 213) ∧
    answer 6 (.dayClose (by_ 6) 0) site = some (.format, .none) ∧
    answer 6 (.dayClose (by_ 6) 4294967295) { site with pool := { site.pool with day := 4294967295 } } =
      some (.lastDay, .currentDay 4294967295) ∧
    answer 6 (.dayClose (by_ 6) 212) { site with audit := { coldAudit with claimed := 512 } } = some (.journalFull, .none) ∧
    answer 6 (.dayClose (by_ 6) 0) State.reset = some (.state, .none) := by decide

theorem test_witness_DayCloseAccepted : Ready (.dayClose (by_ 6) 212) (by_ 6) (at_ 6 (.dayClose · 212)) ∧
    site.pool.day = 212 ∧ site.service.state = .inService ∧ site.audit.journal.length + site.audit.claimed < 512 ∧
    (site.rates.get 12).waiting = some ⟨213, none⟩ :=
  ⟨test_site_is_ready _ _, rfl, rfl, by decide, rfl⟩

/-- A PIECES channel of head 2 under prescale 100. -/
def piecesChannel (v : ChannelState) : Channel :=
  { coldChannel with
    state := v, source := .pieces, headMask := maskSet [2], prescale := .hundred, prescaleCount := 99, count := 1
    action := .noticeInhibit, inhibitMask := maskSet [2] }

/-- The site with that channel as channel 0. -/
def piecesSite (v : ChannelState) : State := { site with channels := site.channels.set 0 (piecesChannel v) }

theorem test_witness_WatchCounting : ¬EventFor (piecesChannel .running) (.pieces 1 77) ∧ ¬EventFor (site.channels.get 1) (.day 213) ∧
    (site.channels.get 0).state = .unloaded ∧
    (EventFor (site.channels.get 1) (.refill 4) ∧ (site.channels.get 1).state = .running ∧
      (site.channels.get 1).prescale = .one ∧ 1 < (site.channels.get 1).count) ∧
    (EventFor (piecesChannel .waiting) (.pieces 2 77)) ∧
    (EventFor { piecesChannel .running with count := 2 } (.pieces 2 77) ∧ (99 + 100) / 100 < 2) ∧
    (EventFor (piecesChannel .running) (.pieces 2 77) ∧ (piecesChannel .running).state = .running ∧
      (piecesChannel .running).count = 1 ∧ (piecesChannel .running).prescaleCount = 99) := by decide

theorem test_witness_WatchZeroActs : (piecesSite .running).resetHeld = false ∧
    ((piecesSite .running).channels.get 0).state = .running ∧
    EventFor ((piecesSite .running).channels.get 0) (.pieces 2 77) ∧
    ((piecesSite .running).channels.get 0).count = 1 ∧ ((piecesSite .running).channels.get 0).prescaleCount = 99 := by decide

theorem test_witness_HoldsCountDown : site.resetHeld = false ∧ site.service.timeBaseLost = false ∧
    (siteIn ⟨.halted, none, false, false, true⟩).service.timeBaseLost = true ∧
    (dueSite 0 false).slots.get 0 = some { record with holdRemaining := 0, handed := false } := by decide

theorem test_witness_HoldExpiryForfeits : (dueSite 0 true).resetHeld = false ∧
    nextTurn (dueSite 0 true) = some (.expiry 0) ∧
    (dueSite 0 true).slots.get 0 = some { record with holdRemaining := 0, handed := true } ∧
    (twoDue.resetHeld = false ∧ nextTurn twoDue = some (.expiry 0) ∧ isHanded (twoDue.slots.get 1) = true) := by decide

theorem test_witness_MonitorsRaiseAlarms : site.resetHeld = false ∧ site.service.tamperActive = false ∧
    site.service.supplyLow = false ∧ site.service.timeBaseLost = false := by decide

theorem test_witness_InputsReturn : site.resetHeld = false ∧
    exec (.status 0 0) { site with resetHeld := true } = .next (next (.status 0 0) { site with resetHeld := true }) :=
  ⟨rfl, rfl⟩

theorem test_witness_FramesReadBack : ReserveBody.wellFormed ⟨3, 255, 255, 65535, 255, 65535⟩ = true ∧
    ReserveBody.wellFormed ⟨2, 1, 0, 0, 0, 0⟩ = true ∧ CommitBody.wellFormed ⟨3, 65535, 65535, 65535⟩ = true ∧
    CommitBody.wellFormed ⟨2, 0, 0, 0⟩ = true := by decide

/-- The site with its last refill logged and a second of the time base commanded: it meets the invariants. -/
def keptSite : State :=
  { site with
    audit := { coldAudit with claimed := 1, refillLog := [⟨3, 500000, 212, 500000⟩] }
    pending := [.timeBaseSecond] }

theorem test_kept_records (k : SlotNo) (o : OpenImprint) (h : keptSite.slots.get k = some o) : o = record := by
  have : ∀ k, keptSite.slots.get k = none ∨ keptSite.slots.get k = some record := by decide
  rcases this k with e | e <;> rw [e] at h <;> cases h
  rfl

theorem test_kept_priced : RecordPriced record := by
  refine ⟨?_, fun l h => ?_, by decide⟩
  · unfold LanePriced; decide
  · cases h

theorem test_witness_CreditConserved : CreditKept keptSite where
  balance := by decide
  reserved := by decide
  headReserved := by decide
  priced := fun k o h => test_kept_records k o h ▸ test_kept_priced
  residues := by decide

theorem test_witness_CeilingHeld : CeilingKept keptSite where
  toCreditKept := test_witness_CreditConserved
  returnState := (by decide : ServiceState.inService ≠ .lockdown)
  empty := by decide
  noRecords := fun h => absurd h (by decide)
  within := by decide

theorem test_kept_head (h : HeadRecord) (hh : h = keptSite.heads.get 2 ∨ h = coldHead) : HeadInRange h := by
  rcases hh with rfl | rfl
  · exact ⟨by decide, by decide, by decide, (fun c e => by cases e), by decide, by decide, by decide, by decide⟩
  · exact ⟨by decide, by decide, by decide, (fun c e => by cases e), by decide, by decide, by decide, by decide⟩

theorem test_witness_RangesHeld : RangesKept keptSite where
  toCeilingKept := test_witness_CeilingHeld
  lanes := fun k o h => by
    rw [test_kept_records k o h]
    exact ⟨by decide, fun l e => by cases e⟩
  poolRange := ⟨by decide, by decide, by decide, by decide, by decide, by decide, by decide, by decide, by decide,
    (fun f e => by cases e), by decide, by decide, by decide⟩
  holds := fun k o h => by rw [test_kept_records k o h]; decide
  headRange := fun h => test_kept_head _ (by revert h; decide)
  valueSettled := by decide

theorem test_witness_JournalHeld : JournalKept keptSite where
  claimed := by decide
  room := by decide
  next := by decide
  sequence := fun i e h => by simp [keptSite, coldAudit] at h

theorem test_witness_RefillLogHeld : RefillLogKept keptSite := ⟨by decide, by decide, by decide⟩

theorem test_witness_TagsHeld : TagsKept keptSite where
  next := by decide
  range := fun k o h => by rw [test_kept_records k o h]; decide
  unique := fun j k o o' hj hk _ => by
    have : ∀ k, (keptSite.slots.get k).isSome = true → k = 0 := by decide
    rw [this j (by rw [hj]; rfl), this k (by rw [hk]; rfl)]
  limit := by decide

/-- The other side of the invariants' hypotheses: a BLANK part with every record at its cold-start value, and a WITHDRAWN and a
locked-down part without records. -/
theorem test_witness_blank : State.reset.service.state = .blank ∧ ColdRecords State.reset :=
  ⟨rfl, rfl, by decide, by decide, by decide, by decide, rfl, rfl, by decide⟩

theorem test_witness_empty : HoldsNoCredit ⟨.withdrawn, none, false, false, false⟩ ∧
    HoldsNoCredit ⟨.lockdown, some .withdrawn, true, false, false⟩ ∧ ¬HoldsNoCredit ⟨.lockdown, some .inService, true, false, false⟩ ∧
    (∀ k, emptySite.slots.get k = none) := by decide

theorem test_witness_StockHeld : StockKept keptSite := by
  have : ∀ e, keptSite.stock.get e = ⟨.unused, 0, 0, 0, 0, false, none⟩ ∨
      keptSite.stock.get e = ⟨.active 50, 100, 100, 0, 0, false, none⟩ := by decide
  intro e
  rcases this e with x | x <;> rw [x] <;>
    exact ⟨rfl, by decide, (by rintro d (h | h) <;> cases h <;> decide), (fun k day h => by cases h), by decide⟩

/-- R89: the largest denomination and the largest last counted. -/
theorem test_witness_stock_entry : StockEntryKept ⟨.retired 99999, 0, 99999999, 99999999, 0, true, some (99999999, 212)⟩ :=
  ⟨rfl, by decide, (by rintro d (h | h) <;> cases h; decide), (fun k day h => by cases h; decide), by decide⟩

theorem test_witness_PendingEntriesHeld : PendingEntriesKept keptSite where
  returnState := (by decide : ServiceState.inService ≠ .lockdown)
  later := fun c e h => by
    have : ∀ c, (keptSite.rates.get c).waiting = none ∨ (keptSite.rates.get c).waiting = some ⟨213, none⟩ := by decide
    rcases this c with x | x <;> rw [x] at h <;> cases h
    decide
  blank := fun h => by cases h

theorem test_witness_ChannelsHeld : ChannelsKept keptSite := by
  have : ∀ c, keptSite.channels.get c = coldChannel ∨ keptSite.channels.get c =
      { coldChannel with state := .running, source := .refills, count := 2, reload := 2 } := by decide
  intro c
  rcases this c with e | e <;> rw [e] <;>
    exact ⟨by decide, by decide, by decide, (fun n h => by cases h), by decide, by decide, by decide⟩

/-- The notice unit of the site with TAMPER in service at the funding port and STOCK_MISMATCH pending there. -/
def keptNotices : NoticeUnit :=
  { resetNotices with
    pending := resetNotices.pending.set 23 (some ⟨255, .stockMismatch 3 1 100 212⟩)
    ports := resetNotices.ports.set 7 ⟨[11, 2], 255, true⟩ }

theorem test_witness_NoticesHeld : NoticesKept keptNotices where
  rising := by decide
  stackLevels := fun p l => by
    have : ∀ p, ∀ l ∈ (keptNotices.ports.get p).stack, 1 ≤ l ∧ l ≤ 11 := by decide
    exact this p l
  levels := by decide
  holds := by decide
  agains := fun n r h => by
    have : ∀ n, keptNotices.pending.get n = none ∨
        keptNotices.pending.get n = some ⟨255, .stockMismatch 3 1 100 212⟩ := by decide
    rcases this n with e | e <;> rw [e] at h <;> cases h
    decide
  disabled := by decide

theorem test_witness_HaltedHeld :
    HaltedKept { siteIn ⟨.halted, none, false, false, true⟩ with
      notices := { resetNotices with ports := resetNotices.ports.set 7 ⟨[9], 0, false⟩ } } where
  returnState := (by decide : ServiceState.halted ≠ .lockdown)
  alarm := by decide

theorem test_witness_LinksHeld : LinksKept (at_ 0 .poolRead) := by
  have : ∀ p, ((at_ 0 .poolRead).links.get p).reply = none ∧ ((at_ 0 .poolRead).links.get p).fault = resetFault := by decide
  intro p
  exact ⟨Or.inr (this p).1, by rw [(this p).2]; rfl⟩

theorem test_witness_invariants_step : ∃ t, step keptSite = .next t ∧
    (t.slots.get 0).map OpenImprint.holdRemaining = some 59 := ⟨_, rfl, rfl⟩

end Sys2Proof.Tests
end

section
/-! Charge computation (chapter 2): what the lane pricing and the lane charge answer in each case, and the two obligations
of the chapter assembled from these. -/

namespace Sys2Proof.Machine

/-! ### The lane reserve and the checks of one lane -/

/-- A class number names its own class (R22). -/
@[simp] theorem classOf_val (c : ClassNo) : classOf c.val = c := Fin.ofNat_val_eq_self c

/-- The lane reserve of a class without a fallback (R24). -/
@[simp] theorem laneReserve_none (e : RateEntry) (p : Nat) :
    laneReserve e none p = (p * e.unitRate + 9) / 10 + e.supplement := rfl

/-- The lane reserve of a class with a fallback, at the dearer figures (R24). -/
@[simp] theorem laneReserve_some (e f : RateEntry) (p : Nat) :
    laneReserve e (some f) p = (p * max e.unitRate f.unitRate + 9) / 10 + max e.supplement f.supplement := rfl

section PriceLane
variable {rates : Tab RateClass 64} {cls f : ClassNo} {e g : RateEntry} {pieces : Nat}

/-- Check 1 of R23: the class entry is UNSET. -/
theorem priceLane_unset (hcls : (rates.get cls).active = none) : priceLane rates cls pieces = .error .unsetRate := by
  simp [priceLane, hcls]

/-- Check 2 of R23: the fallback class's entry is UNSET. -/
theorem priceLane_fallback_unset (hcls : (rates.get cls).active = some e) (hfb : e.fallback = some f)
    (hf : (rates.get f).active = none) : priceLane rates cls pieces = .error .unsetRate := by
  simp [priceLane, hcls, hfb, hf]

/-- Check 3 of R23: fewer pieces than the minimum of a class without a fallback. -/
theorem priceLane_belowMin (hcls : (rates.get cls).active = some e) (hfb : e.fallback = none)
    (hp : pieces < e.minimum) : priceLane rates cls pieces = .error .belowMin := by
  simp [priceLane, hcls, hfb, hp]

/-- A priced lane of a class without a fallback holds the class copy alone (R22, R24). -/
theorem priceLane_single (hcls : (rates.get cls).active = some e) (hfb : e.fallback = none)
    (hp : e.minimum ≤ pieces) :
    priceLane rates cls pieces = .ok ⟨cls, pieces, e, none, laneReserve e none pieces⟩ := by
  simp [priceLane, hcls, hfb, Nat.not_lt.mpr hp]

/-- A priced lane of a class with a fallback holds both copies, whatever the minimum (R22, R23, R24). -/
theorem priceLane_fallback (hcls : (rates.get cls).active = some e) (hfb : e.fallback = some f)
    (hf : (rates.get f).active = some g) :
    priceLane rates cls pieces = .ok ⟨cls, pieces, e, some g, laneReserve e (some g) pieces⟩ := by
  simp [priceLane, hcls, hfb, hf]

end PriceLane

/-! ### The lanes of a reserve request -/

section PriceLanes
variable {rates : Tab RateClass 64} {b : ReserveBody} {e : ReplyCode} {la lb : Lane}

/-- A lane A that fails its checks ends them (R23). -/
theorem priceLanes_error_a (ha : priceLane rates (classOf b.classA) b.piecesA = .error e) :
    priceLanes rates b = .error (e, .a) := by
  simp [priceLanes, ha]

/-- A frame without the third group asks for lane A alone (R176). -/
theorem priceLanes_one (ha : priceLane rates (classOf b.classA) b.piecesA = .ok la) (hg : b.groups ≠ 3) :
    priceLanes rates b = .ok (la, none) := by
  simp [priceLanes, ha, hg]

/-- With lane A priced, a lane B that fails its checks refuses the request (R23). -/
theorem priceLanes_error_b (ha : priceLane rates (classOf b.classA) b.piecesA = .ok la) (hg : b.groups = 3)
    (hb : priceLane rates (classOf b.classB) b.piecesB = .error e) : priceLanes rates b = .error (e, .b) := by
  simp [priceLanes, ha, hg, hb]

/-- Both lanes priced (R23, R24). -/
theorem priceLanes_two (ha : priceLane rates (classOf b.classA) b.piecesA = .ok la) (hg : b.groups = 3)
    (hb : priceLane rates (classOf b.classB) b.piecesB = .ok lb) : priceLanes rates b = .ok (la, some lb) := by
  simp [priceLanes, ha, hg, hb]

end PriceLanes

/-- The total reserve of a request of one lane (R25). -/
@[simp] theorem totalReserve_none (la : Lane) : totalReserve la none = la.reserve := rfl

/-- The total reserve of a request of two lanes (R25). -/
@[simp] theorem totalReserve_some (la lb : Lane) : totalReserve la (some lb) = la.reserve + lb.reserve := rfl

/-! ### The effective entry and the charge of one lane -/

section WorkLane
variable {l : Lane} {f e : RateEntry} {name : Effective} {p r : Nat}

/-- A lane without a fallback copy settles at its class copy, whatever the minimum (R26). -/
theorem effectiveEntry_no_fallback (hfb : l.fallbackCopy = none) : effectiveEntry l p = (.cls, l.classCopy) := by
  simp [effectiveEntry, hfb]

/-- At or above the class copy's minimum the class copy applies (R26). -/
theorem effectiveEntry_minimum_le (hfb : l.fallbackCopy = some f) (hp : l.classCopy.minimum ≤ p) :
    effectiveEntry l p = (.cls, l.classCopy) := by
  simp [effectiveEntry, hfb, hp]

/-- Below the class copy's minimum the fallback copy applies (R26). -/
theorem effectiveEntry_lt_minimum (hfb : l.fallbackCopy = some f) (hp : p < l.classCopy.minimum) :
    effectiveEntry l p = (.fallback, f) := by
  simp [effectiveEntry, hfb, Nat.not_le.mpr hp]

/-- A lane of 0 pieces is charged nothing and leaves the residue alone (R29). -/
@[simp] theorem workLane_zero (l : Lane) (r : Nat) : workLane l 0 r = ⟨.none, 0, r⟩ := rfl

/-- A lane of 1 piece or more is charged under its effective entry (R26). -/
theorem workLane_of_effectiveEntry (hp : 1 ≤ p) (he : effectiveEntry l p = (name, e)) :
    workLane l p r = ⟨name, (entryCharge e (p * e.unitRate) r).1, (entryCharge e (p * e.unitRate) r).2⟩ := by
  simp [workLane, Nat.ne_of_gt hp, he]

end WorkLane

/-- HALF_UP rounds to the nearest cent and hands the residue on (R27). -/
theorem entryCharge_halfUp {e : RateEntry} (h : e.rounding = .halfUp) (g r : Nat) :
    entryCharge e g r = ((g + 5) / 10 + e.supplement, r) := by
  simp [entryCharge, h]

/-- CHOP_CARRY takes the residue in and leaves the remainder (R28). -/
theorem entryCharge_chopCarry {e : RateEntry} (h : e.rounding = .chopCarry) (g r : Nat) :
    entryCharge e g r = ((g + r) / 10 + e.supplement, (g + r) % 10) := by
  simp [entryCharge, h]

/-! ### The lanes of an imprint in order -/

/-- An imprint of one lane carries that lane's charge and residue (R30). -/
theorem workImprint_none (a : Lane) (pa pb r : Nat) :
    workImprint a none pa pb r =
      ⟨workLane a pa r, none, (workLane a pa r).charge, (workLane a pa r).residue⟩ := rfl

/-- Lane B is worked with the residue that lane A leaves, and the charges add up (R30). -/
theorem workImprint_some (a b : Lane) (pa pb r : Nat) :
    workImprint a (some b) pa pb r =
      ⟨workLane a pa r, some (workLane b pb (workLane a pa r).residue),
        (workLane a pa r).charge + (workLane b pb (workLane a pa r).residue).charge,
        (workLane b pb (workLane a pa r).residue).residue⟩ := rfl

end Sys2Proof.Machine

/-! The obligations stand in a namespace of their own: the model has a function `laneReserve`. -/
namespace Sys2Proof.ChargeProofs

open Sys2Proof.Machine

/-! ### The obligations -/

/-- Settles O26: lane A and lane B through the cases of `priceLanes`, one lane through the checks of `priceLane` in the
order of R23. -/
theorem laneReserve : Obligations.LaneReserve := by
  refine ⟨fun rates b ca hca => ?lanes, fun la lb => ⟨totalReserve_none la, totalReserve_some la lb⟩,
    fun e f p => ⟨laneReserve_none e p, laneReserve_some e f p⟩, fun rates cls pieces => ?lane⟩
  case lanes =>
    have hA : classOf b.classA = ca := hca ▸ classOf_val ca
    rw [← hA]
    refine ⟨fun e => priceLanes_error_a, fun la ha => ⟨priceLanes_one ha, fun hg cb hcb => ?_⟩⟩
    have hB : classOf b.classB = cb := hcb ▸ classOf_val cb
    rw [← hB]
    exact ⟨fun e => priceLanes_error_b ha hg, fun lb => priceLanes_two ha hg⟩
  case lane =>
    refine ⟨priceLane_unset, fun e he => ⟨fun hfb => ?single, fun f hfb => ?fallback⟩⟩
    case single => exact ⟨priceLane_belowMin he hfb, priceLane_single he hfb⟩
    case fallback => exact ⟨priceLane_fallback_unset he hfb, fun g hg => priceLane_fallback he hfb hg⟩

/-- Settles O27: the three ways to an effective entry of R26, then its rounding mode. -/
theorem laneCharge : Obligations.LaneCharge := by
  refine ⟨fun a b pa pb r => ⟨workImprint_none a pa pb r, workImprint_some a b pa pb r⟩, fun l p r => ⟨?zero, ?pos⟩⟩
  case zero => rintro rfl; exact workLane_zero l r
  case pos =>
    intro e name hp hpick
    have he : effectiveEntry l p = (name, e) := by
      obtain ⟨hfb, rfl, rfl⟩ | ⟨f, hfb, hmin, rfl, rfl⟩ | ⟨hfb, hmin, rfl⟩ := hpick
      · exact effectiveEntry_no_fallback hfb
      · exact effectiveEntry_minimum_le hfb hmin
      · exact effectiveEntry_lt_minimum hfb hmin
    rw [workLane_of_effectiveEntry hp he]
    exact ⟨fun hmode => by rw [entryCharge_halfUp hmode], fun hmode => by rw [entryCharge_chopCarry hmode]⟩

end Sys2Proof.ChargeProofs
end

section
/-! Notices (chapter 10): which source a TAKE_NOTICE takes, what taking it changes, and the low-credit evaluation that
follows an answer. -/

namespace Sys2Proof.Machine

open Sys2Proof.Config Sys2Proof.Safety

/-! ### The low-credit evaluation after an answer (R6) -/

/-- What the low-credit evaluation leaves of LOW_CREDIT (R6). -/
theorem evaluateLowCredit_lowCredit (s : State) :
    (evaluateLowCredit s).notices.pending.get srcLowCredit = lowCreditAfter s := by
  unfold evaluateLowCredit lowCreditAfter
  split
  case isTrue hblank => simp [hblank]
  case isFalse hblank =>
    split
    case isFalse hcredit => simp [hcredit]
    case isTrue hlow =>
      split
      case isTrue harmed =>
        rw [raiseSource_pending, if_pos rfl, if_pos ⟨hblank, hlow, harmed⟩]
        rfl
      case isFalse harmed => simp [harmed]

/-- An answer that the port does not record is followed by the low-credit evaluation of the state that the engine left
(R6). -/
theorem serve_lowCredit {c : Instr} {q : Req} {engine : State → Answer} {s : State} {a : Answer} (hr : Ready c q s)
    (ha : engine (grant q.port s) = a) (h : isRecorded (a.state.links.get q.port).fault a.code = false) :
    (serve c q engine s).notices.pending.get srcLowCredit = lowCreditAfter a.state := by
  rw [serve_ready hr, ha]
  simp only [conclude, recordRefusal, h]
  exact evaluateLowCredit_lowCredit _

/-! ### The grant and the notice unit (R151) -/

/-- The grant leaves every stack. -/
@[simp] theorem grant_stack (p p' : Port) (s : State) :
    ((grant p s).notices.ports.get p').stack = (s.notices.ports.get p').stack := by
  rw [grant_notices, Tab.get_modify]; split <;> rfl

/-- The grant leaves every no-nesting option. -/
@[simp] theorem grant_noNesting (p p' : Port) (s : State) :
    ((grant p s).notices.ports.get p').noNesting = (s.notices.ports.get p').noNesting := by
  rw [grant_notices, Tab.get_modify]; split <;> rfl

/-! ### The choice among the eligible sources (R149) -/

section Choice
variable {u : NoticeUnit} {p : Port} {n : SourceNo}

/-- Source `n` goes before source `m` in the choice of R149. -/
def Outranks (u : NoticeUnit) (n m : SourceNo) : Prop :=
  sourceLevel u m < sourceLevel u n ∨ (sourceLevel u m = sourceLevel u n ∧ n < m)

theorem Outranks.level_le {m : SourceNo} (h : Outranks u n m) : sourceLevel u m ≤ sourceLevel u n :=
  h.elim Nat.le_of_lt fun e => Nat.le_of_eq e.1

/-- A source of a lower number is outranked only by a strictly higher level. -/
theorem Outranks.level_lt {m : SourceNo} (h : Outranks u n m) (hm : m < n) : sourceLevel u m < sourceLevel u n :=
  h.resolve_right fun e => absurd hm (Fin.lt_asymm e.2)

/-- A source above the level of the best so far becomes the best. -/
theorem betterSource_eq_some {best : Option SourceNo} (h : ∀ m ∈ best, sourceLevel u m < sourceLevel u n) :
    betterSource u best n = some n := by
  cases best with
  | none => rfl
  | some m => simp [betterSource, h m rfl]

/-- The best of two is one of the two. -/
theorem mem_betterSource {best : Option SourceNo} {a b : SourceNo} (h : b ∈ betterSource u best a) : b ∈ best ∨ b = a := by
  cases best with
  | none => exact .inr (Option.some.inj h).symm
  | some m =>
    simp only [betterSource] at h
    split at h
    · exact .inr (Option.some.inj h).symm
    · exact .inl h

/-- A choice stands against sources of no higher level. -/
theorem foldl_betterSource_of_le {l : List SourceNo} (h : ∀ m ∈ l, sourceLevel u m ≤ sourceLevel u n) :
    l.foldl (betterSource u) (some n) = some n := by
  induction l with
  | nil => rfl
  | cons a l ih =>
    obtain ⟨ha, hl⟩ := List.forall_mem_cons.1 h
    rw [List.foldl_cons, betterSource, if_neg (Nat.not_lt.2 ha), ih hl]

/-- Of sources in ascending order, met after others of lower level, the one that outranks the rest is chosen. -/
theorem foldl_betterSource_of_outranks {l : List SourceNo} (hasc : l.Pairwise (· < ·)) (hn : n ∈ l)
    (hout : ∀ m ∈ l, m ≠ n → Outranks u n m) {best : Option SourceNo}
    (hbest : ∀ m ∈ best, sourceLevel u m < sourceLevel u n) : l.foldl (betterSource u) best = some n := by
  induction l generalizing best with
  | nil => cases hn
  | cons a l ih =>
    obtain ⟨hal, hl⟩ := List.pairwise_cons.1 hasc
    obtain ⟨houta, houtl⟩ := List.forall_mem_cons.1 hout
    rw [List.foldl_cons]
    rcases List.mem_cons.1 hn with rfl | hn
    · rw [betterSource_eq_some hbest]
      exact foldl_betterSource_of_le fun m hm => (houtl m hm (Fin.ne_of_gt (hal m hm))).level_le
    · have ha : sourceLevel u a < sourceLevel u n := (houta (Fin.ne_of_lt (hal n hn))).level_lt (hal n hn)
      exact ih hl hn houtl fun m hm => (mem_betterSource hm).elim (hbest m) fun e => e ▸ ha

/-- The candidates of a TAKE_NOTICE at port `p` are its pending sources above the top of its stack (R148). -/
theorem mem_candidates {m : SourceNo} : m ∈ (pendingAt u p).filter (eligible u) ↔
    sourceDest m = p ∧ (u.pending.get m).isSome = true ∧ stackTop (u.ports.get p).stack < sourceLevel u m := by
  simp only [pendingAt, eligible, List.mem_filter, mem_numbers, Bool.and_eq_true, decide_eq_true_eq, true_and]
  constructor
  · rintro ⟨⟨rfl, hsome⟩, -, htop⟩; exact ⟨rfl, hsome, htop⟩
  · rintro ⟨rfl, hsome, htop⟩; exact ⟨⟨rfl, hsome⟩, hsome, htop⟩

/-- The eligible source that outranks every other pending source of its port is chosen (R149). -/
theorem chosenSource_eq_some (hdest : sourceDest n = p) (hpend : (u.pending.get n).isSome = true)
    (htop : stackTop (u.ports.get p).stack < sourceLevel u n)
    (hout : ∀ m, m ≠ n → sourceDest m = p → (u.pending.get m).isSome = true → Outranks u n m) :
    chosenSource u p = some n := by
  have hasc : ((pendingAt u p).filter (eligible u)).Pairwise (· < ·) :=
    (List.pairwise_lt_finRange 36).sublist (List.filter_sublist.trans List.filter_sublist)
  refine foldl_betterSource_of_outranks hasc (mem_candidates.2 ⟨hdest, hpend, htop⟩) (fun m hm hne => ?_) (by simp)
  obtain ⟨hmdest, hmpend, -⟩ := mem_candidates.1 hm
  exact hout m hne hmdest hmpend

/-- With no pending source above the top of the stack nothing is chosen (R149). -/
theorem chosenSource_eq_none
    (h : ∀ m, sourceDest m = p → (u.pending.get m).isSome = true → sourceLevel u m ≤ stackTop (u.ports.get p).stack) :
    chosenSource u p = none := by
  have hnil : (pendingAt u p).filter (eligible u) = [] := by
    refine List.eq_nil_iff_forall_not_mem.2 fun m hm => ?_
    obtain ⟨hdest, hpend, htop⟩ := mem_candidates.1 hm
    exact absurd htop (Nat.not_lt.2 (h m hdest hpend))
  rw [chosenSource, hnil]; rfl

end Choice

/-! ### Taking a source (R149) -/

section Take
variable (p : Port) (n : SourceNo) (s : State)

/-- Taking a source pushes its level on the stack of its port and on no other. -/
theorem takeSource_stack (p' : Port) : ((takeSource p n s).notices.ports.get p').stack =
    if p' = p then pushedLevel (s.notices.ports.get p).noNesting (sourceLevel s.notices n) :: (s.notices.ports.get p).stack
    else (s.notices.ports.get p').stack := by
  simp only [takeSource, modNoticePort_notices, modNotices_notices, Tab.get_modify]
  split
  · subst_vars; rfl
  · rfl

/-- Taking a source removes it from the pending set. -/
@[simp] theorem takeSource_pending : (takeSource p n s).notices.pending = s.notices.pending.set n none := rfl

/-- The sources that stay pending at port `p` are the others. -/
theorem pendingAt_takeSource : pendingAt (takeSource p n s).notices p =
    (List.finRange 36).filter fun m => decide (m ≠ n ∧ sourceDest m = p) && (s.notices.pending.get m).isSome := by
  refine List.filter_congr fun m _ => ?_
  rw [takeSource_pending, Tab.get_set]
  by_cases hm : m = n <;> simp [hm]

/-- Taking a source writes the stack of the port and the pending set alone. -/
theorem takeSource_kept {q : Req} : EngineKept [.stack, .raises] q s (takeSource q.port n s) := by
  refine ⟨(Tab.set_get_self ..).symm, rfl, rfl, rfl, rfl, fun part hpart => ?_⟩
  have hport : ∀ p', ∃ l, (takeSource q.port n s).notices.ports.get p' = { s.notices.ports.get p' with stack := l } := by
    intro p'
    simp only [takeSource, modNoticePort_notices, modNotices_notices, Tab.get_modify]
    split <;> exact ⟨_, rfl⟩
  cases part with
  | stack | raises => simp at hpart
  | nesting | holds => intro p'; obtain ⟨l, e⟩ := hport p'; rw [e]
  | heads | inhibits => intro h; rfl
  | _ => rfl

end Take

/-! ### The engine's part of TAKE_NOTICE (R149) -/

section Engine
variable {q : Req} {n : SourceNo} {r : Raised} {s : State}

/-- The chosen source is taken and reported with the pushed level, the new top, and the number still pending. -/
theorem engineTakeNotice_takes (hfits : q.fits = true) (hchosen : chosenSource s.notices q.port = some n)
    (hpend : s.notices.pending.get n = some r) :
    engineTakeNotice q s =
      let pushed := pushedLevel (s.notices.ports.get q.port).noNesting (sourceLevel s.notices n)
      accept (takeSource q.port n s) (.notice ⟨n, sourceLevel s.notices n, pushed, r.again, r.detail,
        (pendingAt (takeSource q.port n s).notices q.port).length, pushed⟩) := by
  simp [engineTakeNotice, extraBody, hfits, hchosen, hpend, takeSource_stack, stackTop]

/-- The grant leaves the sources pending and the top that the reply NONE reports. -/
theorem noNoticeBody_grant (p : Port) (s : State) : noNoticeBody p (grant p s) = noNoticeBody p s := by
  simp only [noNoticeBody, grant_stack]; rfl

/-- Without a choice nothing is taken. -/
theorem engineTakeNotice_none (hfits : q.fits = true) (hchosen : chosenSource s.notices q.port = none) :
    engineTakeNotice q s = refuse s .none (noNoticeBody q.port s) := by
  simp [engineTakeNotice, extraBody, hfits, hchosen]

end Engine

/-- Settles O24: the chosen source is the one of `chosenSource_eq_some`, taken as `takeSource` says; without an eligible
source nothing is chosen. LOW_CREDIT is what the evaluation of the state that the engine left makes of it. -/
theorem takeNoticeChooses : Obligations.TakeNoticeChooses := by
  refine ⟨fun q n r s hready hfits hdest hpend htop hout => ?taken, fun q s hready hfits hlow => ?nothing⟩
  case taken =>
    have hchosen : chosenSource (grant q.port s).notices q.port = some n :=
      chosenSource_eq_some hdest (by simp [hpend]) (by rwa [grant_stack]) hout
    have hengine := engineTakeNotice_takes hfits hchosen hpend
    simp only [pendingAt_takeSource, grant_noNesting, grant_sourceLevel] at hengine
    obtain ⟨armed, low, hserve, hanswered⟩ :=
      serve_ok hready rfl hengine (takeSource_kept n (grant q.port s))
    have hcredit := serve_lowCredit hready hengine rfl
    rw [hserve] at hcredit
    refine ⟨_, congrArg Host.Outcome.next hserve, hanswered, fun p => ?_, fun m hm => ?_, hcredit⟩
    · refine (takeSource_stack q.port n (grant q.port s) p).trans ?_
      simp only [grant_stack, grant_noNesting, grant_sourceLevel]
      split
      · subst_vars; rfl
      · rfl
    · exact (Tab.get_set_ne _ _ hm).trans (Tab.get_set ..)
  case nothing =>
    have hchosen : chosenSource (grant q.port s).notices q.port = none :=
      chosenSource_eq_none fun m hm hsome => by rw [grant_stack]; exact hlow m hm hsome
    have hengine := engineTakeNotice_none hfits hchosen
    rw [noNoticeBody_grant] at hengine
    obtain ⟨armed, low, hserve, hanswered⟩ := serve_answered hready hengine rfl (.refl q _)
    have hcredit := serve_lowCredit hready hengine rfl
    rw [resultFlags_clear rfl] at hanswered
    rw [hserve] at hcredit
    exact ⟨_, congrArg Host.Outcome.next hserve, hanswered, hcredit⟩

end Sys2Proof.Machine
end

section
/-! What the near-full evaluation and one counted event leave as it was: one lemma per field, from the equation that says
what each can do. -/

namespace Sys2Proof.Machine

open Sys2Proof.Config Sys2Proof.Safety

/-! ### The near-full evaluation (R113) -/

@[simp] theorem evaluateNearFull_pool (s) : (evaluateNearFull s).pool = s.pool := by
  obtain ⟨_, _, e, -⟩ := evaluateNearFull_eq s; rw [e]
@[simp] theorem evaluateNearFull_heads (s) : (evaluateNearFull s).heads = s.heads := by
  obtain ⟨_, _, e, -⟩ := evaluateNearFull_eq s; rw [e]
@[simp] theorem evaluateNearFull_slots (s) : (evaluateNearFull s).slots = s.slots := by
  obtain ⟨_, _, e, -⟩ := evaluateNearFull_eq s; rw [e]
@[simp] theorem evaluateNearFull_rates (s) : (evaluateNearFull s).rates = s.rates := by
  obtain ⟨_, _, e, -⟩ := evaluateNearFull_eq s; rw [e]
@[simp] theorem evaluateNearFull_stock (s) : (evaluateNearFull s).stock = s.stock := by
  obtain ⟨_, _, e, -⟩ := evaluateNearFull_eq s; rw [e]
@[simp] theorem evaluateNearFull_stockDay (s) : (evaluateNearFull s).stockDay = s.stockDay := by
  obtain ⟨_, _, e, -⟩ := evaluateNearFull_eq s; rw [e]
@[simp] theorem evaluateNearFull_channels (s) : (evaluateNearFull s).channels = s.channels := by
  obtain ⟨_, _, e, -⟩ := evaluateNearFull_eq s; rw [e]
@[simp] theorem evaluateNearFull_service (s) : (evaluateNearFull s).service = s.service := by
  obtain ⟨_, _, e, -⟩ := evaluateNearFull_eq s; rw [e]
@[simp] theorem evaluateNearFull_links (s) : (evaluateNearFull s).links = s.links := by
  obtain ⟨_, _, e, -⟩ := evaluateNearFull_eq s; rw [e]
@[simp] theorem evaluateNearFull_lastServed (s) : (evaluateNearFull s).lastServed = s.lastServed := by
  obtain ⟨_, _, e, -⟩ := evaluateNearFull_eq s; rw [e]
@[simp] theorem evaluateNearFull_search (s) : (evaluateNearFull s).search = s.search := by
  obtain ⟨_, _, e, -⟩ := evaluateNearFull_eq s; rw [e]
@[simp] theorem evaluateNearFull_resetHeld (s) : (evaluateNearFull s).resetHeld = s.resetHeld := by
  obtain ⟨_, _, e, -⟩ := evaluateNearFull_eq s; rw [e]
@[simp] theorem evaluateNearFull_queue (s) : (evaluateNearFull s).pending = s.pending := by
  obtain ⟨_, _, e, -⟩ := evaluateNearFull_eq s; rw [e]
@[simp] theorem evaluateNearFull_journal (s) : (evaluateNearFull s).audit.journal = s.audit.journal := by
  obtain ⟨_, _, e, -⟩ := evaluateNearFull_eq s; rw [e]
@[simp] theorem evaluateNearFull_claimed (s) : (evaluateNearFull s).audit.claimed = s.audit.claimed := by
  obtain ⟨_, _, e, -⟩ := evaluateNearFull_eq s; rw [e]
@[simp] theorem evaluateNearFull_accumulators (s) : (evaluateNearFull s).audit.accumulators = s.audit.accumulators := by
  obtain ⟨_, _, e, -⟩ := evaluateNearFull_eq s; rw [e]
@[simp] theorem evaluateNearFull_dayLog (s) : (evaluateNearFull s).audit.dayLog = s.audit.dayLog := by
  obtain ⟨_, _, e, -⟩ := evaluateNearFull_eq s; rw [e]
@[simp] theorem evaluateNearFull_refillLog (s) : (evaluateNearFull s).audit.refillLog = s.audit.refillLog := by
  obtain ⟨_, _, e, -⟩ := evaluateNearFull_eq s; rw [e]
@[simp] theorem evaluateNearFull_levels (s) : (evaluateNearFull s).notices.levels = s.notices.levels := by
  obtain ⟨_, _, e, -⟩ := evaluateNearFull_eq s; rw [e]
@[simp] theorem evaluateNearFull_ports (s) : (evaluateNearFull s).notices.ports = s.notices.ports := by
  obtain ⟨_, _, e, -⟩ := evaluateNearFull_eq s; rw [e]

/-- The near-full evaluation raises JOURNAL_NEAR_FULL alone. -/
theorem evaluateNearFull_pending (s : State) {n : SourceNo} (hn : n ≠ srcNearFull) :
    (evaluateNearFull s).notices.pending.get n = s.notices.pending.get n := by
  obtain ⟨_, _, e, -⟩ := evaluateNearFull_eq s
  rw [e]; exact Tab.get_set_ne _ _ hn

/-- The audit store after the near-full evaluation: near-full armed may have changed. -/
theorem evaluateNearFull_audit (s : State) :
    (evaluateNearFull s).audit = { s.audit with nearFullArmed := (evaluateNearFull s).audit.nearFullArmed } := by
  obtain ⟨_, _, e, -⟩ := evaluateNearFull_eq s; rw [e]

/-! ### An entry written without a claim (R109) -/

@[simp] theorem writeFree_pool (k p i s) : (writeFree k p i s).pool =
    { s.pool with movementSequence := (s.pool.movementSequence + 1) % 4294967296 } := by
  simp [writeFree, writeEntry, max32]
@[simp] theorem writeFree_journal (k p i s) :
    (writeFree k p i s).audit.journal = s.audit.journal ++ [entryNow k p i s] := by simp [writeFree, writeEntry]
@[simp] theorem writeFree_accumulators (k p i s) :
    (writeFree k p i s).audit.accumulators = accumulate k i s.audit.accumulators := by simp [writeFree, writeEntry]
@[simp] theorem writeFree_heads (k p i s) : (writeFree k p i s).heads = s.heads := by simp [writeFree, writeEntry]
@[simp] theorem writeFree_slots (k p i s) : (writeFree k p i s).slots = s.slots := by simp [writeFree, writeEntry]
@[simp] theorem writeFree_rates (k p i s) : (writeFree k p i s).rates = s.rates := by simp [writeFree, writeEntry]
@[simp] theorem writeFree_stock (k p i s) : (writeFree k p i s).stock = s.stock := by simp [writeFree, writeEntry]
@[simp] theorem writeFree_stockDay (k p i s) : (writeFree k p i s).stockDay = s.stockDay := by simp [writeFree, writeEntry]
@[simp] theorem writeFree_channels (k p i s) : (writeFree k p i s).channels = s.channels := by simp [writeFree, writeEntry]
@[simp] theorem writeFree_service (k p i s) : (writeFree k p i s).service = s.service := by simp [writeFree, writeEntry]
@[simp] theorem writeFree_links (k p i s) : (writeFree k p i s).links = s.links := by simp [writeFree, writeEntry]
@[simp] theorem writeFree_lastServed (k p i s) : (writeFree k p i s).lastServed = s.lastServed := by simp [writeFree, writeEntry]
@[simp] theorem writeFree_search (k p i s) : (writeFree k p i s).search = s.search := by simp [writeFree, writeEntry]
@[simp] theorem writeFree_resetHeld (k p i s) : (writeFree k p i s).resetHeld = s.resetHeld := by simp [writeFree, writeEntry]
@[simp] theorem writeFree_queue (k p i s) : (writeFree k p i s).pending = s.pending := by simp [writeFree, writeEntry]
@[simp] theorem writeFree_claimed (k p i s) : (writeFree k p i s).audit.claimed = s.audit.claimed := by simp [writeFree, writeEntry]
@[simp] theorem writeFree_dayLog (k p i s) : (writeFree k p i s).audit.dayLog = s.audit.dayLog := by simp [writeFree, writeEntry]
@[simp] theorem writeFree_refillLog (k p i s) : (writeFree k p i s).audit.refillLog = s.audit.refillLog := by simp [writeFree, writeEntry]
@[simp] theorem writeFree_levels (k p i s) : (writeFree k p i s).notices.levels = s.notices.levels := by simp [writeFree, writeEntry]
@[simp] theorem writeFree_ports (k p i s) : (writeFree k p i s).notices.ports = s.notices.ports := by simp [writeFree, writeEntry]

/-! ### One counted event (R129, R136 to R140) -/

@[simp] theorem receiveEvent_pool (c ev s) : (receiveEvent c ev s).pool = s.pool := by
  rw [(CountStep.receiveEvent c ev s).shape]
@[simp] theorem receiveEvent_slots (c ev s) : (receiveEvent c ev s).slots = s.slots := by
  rw [(CountStep.receiveEvent c ev s).shape]
@[simp] theorem receiveEvent_rates (c ev s) : (receiveEvent c ev s).rates = s.rates := by
  rw [(CountStep.receiveEvent c ev s).shape]
@[simp] theorem receiveEvent_stock (c ev s) : (receiveEvent c ev s).stock = s.stock := by
  rw [(CountStep.receiveEvent c ev s).shape]
@[simp] theorem receiveEvent_audit (c ev s) : (receiveEvent c ev s).audit = s.audit := by
  rw [(CountStep.receiveEvent c ev s).shape]
@[simp] theorem receiveEvent_service (c ev s) : (receiveEvent c ev s).service = s.service := by
  rw [(CountStep.receiveEvent c ev s).shape]
@[simp] theorem receiveEvent_links (c ev s) : (receiveEvent c ev s).links = s.links := by
  rw [(CountStep.receiveEvent c ev s).shape]
@[simp] theorem receiveEvent_queue (c ev s) : (receiveEvent c ev s).pending = s.pending := by
  rw [(CountStep.receiveEvent c ev s).shape]
@[simp] theorem receiveEvent_levels (c ev s) : (receiveEvent c ev s).notices.levels = s.notices.levels := by
  rw [(CountStep.receiveEvent c ev s).shape]
@[simp] theorem receiveEvent_ports (c ev s) : (receiveEvent c ev s).notices.ports = s.notices.ports := by
  rw [(CountStep.receiveEvent c ev s).shape]

/-- An event of one channel leaves the others. -/
theorem receiveEvent_channels (c : ChannelNo) (ev : SourceEvent) (s : State) :
    (receiveEvent c ev s).channels = s.channels.set c (nextChannel (s.channels.get c)) := by
  rw [(CountStep.receiveEvent c ev s).shape, receiveEvent_channel]

/-- An event leaves of a head's record all but the holders set (R140). -/
theorem receiveEvent_head (c : ChannelNo) (ev : SourceEvent) (s : State) (h : Head) :
    (receiveEvent c ev s).heads.get h =
      { s.heads.get h with inhibitHolders := ((receiveEvent c ev s).heads.get h).inhibitHolders } := by
  rw [← (CountStep.receiveEvent c ev s).heads h]

/-- An UNLOADED channel ignores an event (R129). -/
theorem receiveEvent_unloaded {c : ChannelNo} {ev : SourceEvent} {s : State} (h : (s.channels.get c).state = .unloaded) :
    receiveEvent c ev s = s := by
  simp [receiveEvent, h]

/-! ### Movements with a choice inside: the return from HALTED and an acknowledgement -/

@[simp] theorem returnFromHalted_pool (p s) : (returnFromHalted p s).pool = s.pool := by
  unfold returnFromHalted; split <;> rfl
@[simp] theorem returnFromHalted_heads (p s) : (returnFromHalted p s).heads = s.heads := by
  unfold returnFromHalted; split <;> rfl
@[simp] theorem returnFromHalted_slots (p s) : (returnFromHalted p s).slots = s.slots := by
  unfold returnFromHalted; split <;> rfl
@[simp] theorem returnFromHalted_rates (p s) : (returnFromHalted p s).rates = s.rates := by
  unfold returnFromHalted; split <;> rfl
@[simp] theorem returnFromHalted_stock (p s) : (returnFromHalted p s).stock = s.stock := by
  unfold returnFromHalted; split <;> rfl
@[simp] theorem returnFromHalted_stockDay (p s) : (returnFromHalted p s).stockDay = s.stockDay := by
  unfold returnFromHalted; split <;> rfl
@[simp] theorem returnFromHalted_audit (p s) : (returnFromHalted p s).audit = s.audit := by
  unfold returnFromHalted; split <;> rfl
@[simp] theorem returnFromHalted_channels (p s) : (returnFromHalted p s).channels = s.channels := by
  unfold returnFromHalted; split <;> rfl
@[simp] theorem returnFromHalted_notices (p s) : (returnFromHalted p s).notices = s.notices := by
  unfold returnFromHalted; split <;> rfl
@[simp] theorem returnFromHalted_links (p s) : (returnFromHalted p s).links = s.links := by
  unfold returnFromHalted; split <;> rfl
@[simp] theorem returnFromHalted_queue (p s) : (returnFromHalted p s).pending = s.pending := by
  unfold returnFromHalted; split <;> rfl

/-- The return from HALTED: it leaves service control, or moves a HALTED part with no hard alarm standing to IN_SERVICE
(R154). -/
theorem returnFromHalted_service (p : Port) (s : State) : (returnFromHalted p s).service = s.service ∨
    (s.service.state = .halted ∧ (returnFromHalted p s).service = { s.service with state := .inService }) := by
  unfold returnFromHalted
  split
  · rename_i h; exact .inr ⟨h.2.1, rfl⟩
  · exact .inl rfl

@[simp] theorem acknowledge_pool (n s) : (acknowledge n s).pool = s.pool := by
  simp only [acknowledge]; split <;> simp
@[simp] theorem acknowledge_heads (n s) : (acknowledge n s).heads = s.heads := by
  simp only [acknowledge]; split <;> simp
@[simp] theorem acknowledge_slots (n s) : (acknowledge n s).slots = s.slots := by
  simp only [acknowledge]; split <;> simp
@[simp] theorem acknowledge_rates (n s) : (acknowledge n s).rates = s.rates := by
  simp only [acknowledge]; split <;> simp
@[simp] theorem acknowledge_stock (n s) : (acknowledge n s).stock = s.stock := by
  simp only [acknowledge]; split <;> simp
@[simp] theorem acknowledge_channels (n s) : (acknowledge n s).channels = s.channels := by
  simp only [acknowledge]; split <;> simp
@[simp] theorem acknowledge_service (n s) : (acknowledge n s).service = s.service := by
  simp only [acknowledge]; split <;> simp
@[simp] theorem acknowledge_links (n s) : (acknowledge n s).links = s.links := by
  simp only [acknowledge]; split <;> simp
@[simp] theorem acknowledge_queue (n s) : (acknowledge n s).pending = s.pending := by
  simp only [acknowledge]; split <;> simp
@[simp] theorem acknowledge_journal (n s) : (acknowledge n s).audit.journal = s.audit.journal.drop n := by
  simp only [acknowledge]; split <;> simp
@[simp] theorem acknowledge_claimed (n s) : (acknowledge n s).audit.claimed = s.audit.claimed := by
  simp only [acknowledge]; split <;> simp
@[simp] theorem acknowledge_accumulators (n s) : (acknowledge n s).audit.accumulators = s.audit.accumulators := by
  simp only [acknowledge]; split <;> simp
@[simp] theorem acknowledge_refillLog (n s) : (acknowledge n s).audit.refillLog = s.audit.refillLog := by
  simp only [acknowledge]; split <;> simp
@[simp] theorem acknowledge_levels (n s) : (acknowledge n s).notices.levels = s.notices.levels := by
  simp only [acknowledge]; split <;> simp
@[simp] theorem acknowledge_ports (n s) : (acknowledge n s).notices.ports = s.notices.ports := by
  simp only [acknowledge]; split <;> simp

end Sys2Proof.Machine
end

section
/-! What a step can do, said once: the movements that the engine makes for a request, each with what its checks have
established, and the other movements of the part; every command is a sequence of these. -/

namespace Sys2Proof.Machine

open Sys2Proof.Config Sys2Proof.Safety

/-! ### The engine of a request -/

/-- The engine's part of a request command. -/
def engineOf (c : Instr) (s : State) : Answer :=
  match c with
  | .poolRead q => enginePoolRead q s
  | .headRead q head => engineHeadRead q head s
  | .setLimits q ceiling threshold floor => engineSetLimits q ceiling threshold floor s
  | .setHead q head enabled hold cap => engineSetHead q head enabled hold cap s
  | .serviceRead q => engineServiceRead q s
  | .commission q licence ceiling threshold => engineCommission q licence ceiling threshold s
  | .unlock q => engineUnlock q s
  | .reserve q body => engineReserve q body s
  | .commit q body => engineCommit q body s
  | .cancel q tag => engineCancel q tag s
  | .listOpen q head => engineListOpen q head s
  | .compare q x y pieces residue => engineCompare q x y pieces residue s
  | .rateRead q cls => engineRateRead q cls s
  | .setRate q cls fields effective => engineSetRate q cls fields effective s
  | .withdrawRate q cls effective => engineWithdrawRate q cls effective s
  | .refill q serial amount licence => engineRefill q serial amount licence s
  | .returnCredit q amount => engineReturnCredit q amount s
  | .decommission q => engineDecommission q s
  | .refillLogRead q offset count => engineRefillLogRead q offset count s
  | .stockDefine q entry denomination => engineStockDefine q entry denomination s
  | .stockRetire q entry => engineStockRetire q entry s
  | .stockReceive q entry stamps => engineStockReceive q entry stamps s
  | .stockIssue q entry stamps => engineStockMove true q entry stamps s
  | .stockSpoil q entry stamps => engineStockMove false q entry stamps s
  | .stockCount q entry counted => engineStockCount q entry counted s
  | .stockClearMismatch q entry => engineStockClearMismatch q entry s
  | .stockRead q entry => engineStockRead q entry s
  | .journalRead q offset count => engineJournalRead q offset count s
  | .journalAck q number => engineJournalAck q number s
  | .dayClose q day => engineDayClose q day s
  | .dayLogRead q position => engineDayLogRead q position s
  | .watchSet q channel fields op => engineWatchSet q channel fields op s
  | .watchRelease q channel => engineWatchRelease q channel s
  | .watchRead q channel => engineWatchRead q channel s
  | .takeNotice q => engineTakeNotice q s
  | .noticeDone q => engineNoticeDone q s
  | .noticeHold q count => engineNoticeHold q count s
  | .noticeLevel q source level => engineNoticeLevel q source level s
  | .noticeNesting q option => engineNoticeNesting q option s
  | .faultRead q => engineFaultRead q s
  | .clearFault q => engineClearFault q s
  | .faultEnable q unsetRate funds limit late => engineFaultEnable q unsetRate funds limit late s
  | _ => refuse s .role .none

/-- A request command takes its course with its engine. -/
theorem exec_request {c : Instr} {q : Req} (h : requestHeader c = some q) (s : State) :
    exec c s = .next (serve c q (engineOf c) s) := by
  cases c <;> simp only [requestHeader, Option.some.injEq, reduceCtorEq] at h <;> subst h <;> rfl

/-- A request at its turn is granted, carried out by its engine and concluded. -/
theorem exec_ready {c : Instr} {q : Req} {s : State} (h : requestHeader c = some q) (hr : Ready c q s) :
    exec c s = .next (conclude c q (engineOf c (grant q.port s))) := by
  rw [exec_request h, serve_ready hr]

/-! ### The movements of the engine -/

/-- What an accepted REFILL writes before its event is counted and REFILL_ACCEPTED raised (R80, R81). -/
def refillMovement (serial amount : Nat) (s : State) : State :=
  modAudit (fun a => { a with
      refillLog := pushRefill a.refillLog ⟨serial, amount, s.pool.day, s.pool.descending + amount⟩ })
    (writeFree .refill fundingPort (plainItems none amount)
      (modPool (fun p => { p with
        descending := p.descending + amount
        fundedTotal := p.fundedTotal + amount
        lastVoucher := serial }) s))

theorem acceptRefill_eq (serial amount : Nat) (s : State) :
    acceptRefill serial amount s = raiseSource srcRefillAccepted (.refillAccepted serial amount (s.pool.descending + amount))
      (countEvents (.refill serial) 1 (refillMovement serial amount s)) := rfl

/-- What a close writes before TARIFF_APPLIED is raised and its event counted (R120). -/
def closeMovement (s : State) : State :=
  let written := modAudit (fun a => { a with
      dayLog := (daySummary s :: a.dayLog).take dayLogCapacity
      accumulators := emptyAccumulators })
    (writeFree .dayClose tellerPort (plainItems none 0) s)
  { written with
    heads := written.heads.map fun h => { h with usedToday := 0 }
    stockDay := emptyStockDay
    pool := { written.pool with day := s.pool.day + 1 }
    rates := written.rates.map (appliedRate (s.pool.day + 1)) }

theorem closeDay_eq (s : State) : closeDay s = countEvents (.day (s.pool.day + 1)) 1
    (raiseTariff (daySummary s).applied.length (s.pool.day + 1) (closeMovement s)) := rfl

/-- A count of the shelf is recorded (R100). -/
def countedEntry (k day : Nat) (r : StockEntry) : StockEntry :=
  { r with lastCounted := some (k, day), mismatch := r.mismatch || decide (k ≠ r.onHand) }

/-- A movement of the engine for a request, but for the taking of a source and the setting of a level: each with what the
request's checks have established. -/
inductive EngineMove : State → State → Prop
  | raise {n d s} (other : n ≠ srcLowCredit) : EngineMove s (raiseSource n d s)
  | receive {c ev s} : EngineMove s (receiveEvent c ev s)
  | limits {c t f s} (working : isWorking s.service.state = true)
      (ceiling : ∀ v, c = .value v → 1 ≤ v ∧ v ≤ 9999999999 ∧ s.pool.descending + s.pool.reservedTotal ≤ v)
      (threshold : ∀ v, t = .value v → v ≤ 9999999999) (floor : ∀ v, f = .value v → v ≤ 9999999999) :
      EngineMove s (modPool (setLimits c t f) s)
  | headItems {h enabled hold cap s} (working : isWorking s.service.state = true)
      (inRange : ∀ v, cap = .value v → 1 ≤ v ∧ v ≤ 9999999999) : EngineMove s (modHead h (setHeadItems enabled hold cap) s)
  | commission {licence ceiling threshold s} (out : s.service.state = .blank ∨ s.service.state = .withdrawn)
      (licences : 1 ≤ licence ∧ licence ≤ 99999999) (ceilings : 1 ≤ ceiling ∧ ceiling ≤ 9999999999)
      (thresholds : threshold ≤ 9999999999) :
      EngineMove s (modService (fun v => { v with state := .inService })
        (modPool (commissionPool (decide (s.service.state = .blank)) licence ceiling threshold) s))
  | unlock {s} (locked : s.service.state = .lockdown) :
      EngineMove s (modService (fun v => { v with state := returnTarget v, returnState := none }) s)
  | reserve {h a b k s} (inService : s.service.state = .inService) (pricedA : LanePriced a ∧ a.pieces ≤ 9999)
      (pricedB : ∀ l, b = some l → LanePriced l ∧ l.pieces ≤ 9999) (free : s.slots.get k = none)
      (limit : headOpenCount h s < 4) (room : journalFree s ≠ 0) (funds : totalReserve a b ≤ s.pool.descending)
      (ascLimit : (s.heads.get h).ascending + (s.heads.get h).headReserved + totalReserve a b ≤ 99999999999) :
      EngineMove s (openRecord k (newRecord h a b s) s)
  | settle {k o kind entry charge pieces residue pa pb s} (slot : s.slots.get k = some o)
      (kinds : entry = .commit ∨ entry = .expiryCharge ∨ entry = .restartCharge) (inA : pa ≤ o.laneA.pieces)
      (inB : pb ≤ (o.laneB.map Lane.pieces).getD 0) (counted : pieces = pa + pb)
      (charged : charge = (workImprint o.laneA o.laneB pa pb (s.heads.get o.head).residue).charge ∨ charge = o.total)
      (carried : residue = (workImprint o.laneA o.laneB pa pb (s.heads.get o.head).residue).residue) :
      EngineMove s (Machine.settle k o kind entry charge pieces residue s)
  | cancel {k o s} (slot : s.slots.get k = some o) : EngineMove s (cancelRecord k o s)
  | rate {c content effective s} (working : isWorking s.service.state = true) :
      EngineMove s (modRate c (changedRate content effective s.pool.day) s)
  | refill {serial amount s} (inService : s.service.state = .inService) (next : serial = s.pool.lastVoucher + 1)
      (serials : serial ≤ 4294967295) (within : s.pool.descending + s.pool.reservedTotal + amount ≤ s.pool.ceiling)
      (funded : s.pool.fundedTotal + amount ≤ 999999999999999) (room : journalFree s ≠ 0) :
      EngineMove s (refillMovement serial amount s)
  | giveBack {amount s} (inService : s.service.state = .inService) (funds : amount ≤ s.pool.descending)
      (room : journalFree s ≠ 0) : EngineMove s (returnToGateway amount s)
  | decommission {s} (inService : s.service.state = .inService) (closed : openCount s = 0) (room : journalFree s ≠ 0) :
      EngineMove s (modService (fun v => { v with state := .withdrawn }) (returnToGateway s.pool.descending s))
  | define {e d s} (working : isWorking s.service.state = true) (unused : (s.stock.get e).state = .unused)
      (inRange : 1 ≤ d ∧ d ≤ 99999) : EngineMove s (modStock e (fun r => { r with state := .active d }) s)
  | retire {e d s} (working : isWorking s.service.state = true) (active : (s.stock.get e).state = .active d) :
      EngineMove s (modStock e (fun r => { r with state := .retired d }) s)
  | countShelf {e k s} (working : isWorking s.service.state = true) (used : (s.stock.get e).state ≠ .unused)
      (inRange : k ≤ 99999999) : EngineMove s (modStock e (countedEntry k s.pool.day) s)
  | clearMismatch {e s} (working : isWorking s.service.state = true) :
      EngineMove s (modStock e (fun r => { r with mismatch := false }) s)
  | receiveStamps {e n d s} (inService : s.service.state = .inService) (active : (s.stock.get e).state = .active d)
      (limit : (s.stock.get e).received + n ≤ 99999999) (room : journalFree s ≠ 0) (funds : n * d ≤ s.pool.descending) :
      EngineMove s (Machine.receiveStamps e n (n * d) s)
  | moveStamps {issue e n d s} (working : isWorking s.service.state = true) (active : (s.stock.get e).state = .active d)
      (onHand : n ≤ (s.stock.get e).onHand) (room : journalFree s ≠ 0) : EngineMove s (Machine.moveStamps issue e n d s)
  | acknowledge {n s} (held : n ≤ unacknowledged s) : EngineMove s (Machine.acknowledge n s)
  | close {s} (working : isWorking s.service.state = true) (notLast : s.pool.day ≠ 4294967295) (room : journalFree s ≠ 0) :
      EngineMove s (closeMovement s)
  | program {c f op s} (working : isWorking s.service.state = true) (prescale : f.prescale = .hundred → f.source = .pieces)
      (reload : ∀ n, op = .load n → n ≤ 65535) : EngineMove s (setChannel c (programChannel f op (s.channels.get c)) s)
  | release {c s} (working : isWorking s.service.state = true) : EngineMove s (releaseChannel c s)
  | done {p l rest s} (top : (s.notices.ports.get p).stack = l :: rest) :
      EngineMove s (returnFromHalted p (modNoticePort p (fun x => { x with stack := rest }) s))
  | hold {p n s} (inRange : n ≤ 255) : EngineMove s (modNoticePort p (fun x => { x with holdCount := n }) s)
  | nesting {p on s} : EngineMove s (modNoticePort p (fun x => { x with noNesting := on }) s)
  | fault {p s} (f : FaultRecord → FaultRecord) (kept : ∀ g, g.sticky = g.code.isSome → (f g).sticky = (f g).code.isSome) :
      EngineMove s (modLink p (fun l => { l with fault := f l.fault }) s)

/-- A sequence of the engine's movements. -/
abbrev EngineMoves : State → State → Prop := Relation.ReflTransGen EngineMove

theorem EngineMove.once {s t : State} (m : EngineMove s t) : EngineMoves s t := .single m

/-! ### The movements of the part -/

/-- A movement of the part: one of the engine, or one of the links, the arbiter, the notice unit, service control, the time
base or a reset. -/
inductive Move : State → State → Prop
  | engine {s t} (m : EngineMove s t) : Move s t
  | take {p n s} (dest : sourceDest n = p) (waits : (s.notices.pending.get n).isSome = true)
      (above : stackTop (s.notices.ports.get p).stack < sourceLevel s.notices n) : Move s (takeSource p n s)
  | level {n l s} (inRange : l ≤ 7) : Move s (modNotices (setLevel n l) s)
  | link {p s} (l : PortLink) (kept : LinkKept (s.links.get p) → LinkKept l) : Move s { s with links := s.links.set p l }
  | grant {p s} : Move s (Machine.grant p s)
  | lowCredit {d s} : Move s (raiseSource srcLowCredit d s)
  | arm {b s} (present : s.service.state ≠ .blank) : Move s (modPool (fun q => { q with lowCreditArmed := b }) s)
  | inputs {s} (f : Service → Service) (kept : ∀ v, (f v).state = v.state ∧ (f v).returnState = v.returnState) :
      Move s (modService f s)
  | alarm {n s} (hard : n ∈ hardAlarms) : Move s (raiseAlarm n s)
  | second {s} : Move s { s with slots := s.slots.map secondPasses }
  | hand {k o s} (slot : s.slots.get k = some o) : Move s (setSlot k (some { o with handed := true }) s)
  | place {x s} : Move s { s with search := x }
  | holdReset {s} : Move s { s with resetHeld := true }
  | contexts {s} : Move s (resetContexts s)
  | rearm {s} : Move s (rearmNearFull s)
  | cold {s} : Move s { State.reset with pending := s.pending }

/-- A sequence of movements. -/
abbrev Moves : State → State → Prop := Relation.ReflTransGen Move

theorem Move.once {s t : State} (m : Move s t) : Moves s t := .single m

theorem EngineMoves.moves {s t : State} (h : EngineMoves s t) : Moves s t := by
  induction h with
  | refl => exact .refl
  | tail _ m ih => exact ih.tail (.engine m)

/-! ### The movements of each engine -/

theorem EngineMoves.receiveEvents (c : ChannelNo) (ev : SourceEvent) (n : Nat) (s : State) :
    EngineMoves s (receiveEvents c ev n s) := by
  induction n generalizing s with
  | zero => exact .refl
  | succ n ih =>
    simp only [Machine.receiveEvents]
    split
    · exact (ih _).head .receive
    · exact .refl

theorem EngineMoves.countEvents (ev : SourceEvent) (n : Nat) (s : State) : EngineMoves s (countEvents ev n s) := by
  unfold Machine.countEvents
  generalize numbers 8 = cs
  induction cs generalizing s with
  | nil => exact .refl
  | cons c cs ih => exact (EngineMoves.receiveEvents c ev n s).trans (ih _)

/-- A forfeit settles the record at its whole reserve and counts its pieces (R33). -/
theorem forfeit_moves {k : SlotNo} {o : OpenImprint} {kind : ClosureKind} {entry : EntryKind} {s : State}
    (slot : s.slots.get k = some o) (kinds : entry = .commit ∨ entry = .expiryCharge ∨ entry = .restartCharge) :
    EngineMoves s (forfeit k o kind entry s) :=
  (EngineMoves.countEvents _ _ _).head (.settle slot kinds (Nat.le_refl _) (Nat.le_refl _) rfl (.inr rfl) rfl)

/-- The pieces of lane B do not matter to a record without one. -/
theorem workImprint_commitPiecesB (o : OpenImprint) (b : CommitBody) (r : Nat) :
    workImprint o.laneA o.laneB b.piecesA (commitPiecesB o b) r = workImprint o.laneA o.laneB b.piecesA b.piecesB r := by
  unfold commitPiecesB
  cases o.laneB <;> rfl

theorem choiceBad_value {α : Type} {bad : α → Bool} {c : Choice α} (h : choiceBad bad c = false) {v : α} (e : c = .value v) :
    bad v = false := by
  subst e; exact h

/-- A check whose refusal leaves the state: what follows matters only when it is passed. -/
theorem moves_check {p : Prop} [Decidable p] {s : State} {code : ReplyCode} {body : ReplyBody} {a : Answer}
    (h : ¬p → EngineMoves s a.state) : EngineMoves s (if p then refuse s code body else a).state := by
  split
  · exact .refl
  · exact h ‹_›

theorem engineSetLimits_moves (q : Req) (c t f : Choice Nat) (s : State) :
    EngineMoves s (engineSetLimits q c t f s).state := by
  unfold engineSetLimits
  refine moves_check fun hw => moves_check fun hf => moves_check fun hc => ?_
  simp only [Bool.or_eq_true, not_or, Bool.not_eq_true] at hf
  obtain ⟨⟨⟨-, hfc⟩, hft⟩, hff⟩ := hf
  refine EngineMove.once (.limits (by simpa using hw) (fun v e => ?_) (fun v e => ?_) (fun v e => ?_))
  · have h1 := choiceBad_value hfc e
    have h2 : ¬v < s.pool.descending + s.pool.reservedTotal := by subst e; simpa [ceilingTooLow] using hc
    simp only [Bool.or_eq_false_iff, decide_eq_false_iff_not] at h1
    simp only [maxPool] at h1
    omega
  · exact Nat.not_lt.1 (of_decide_eq_false (choiceBad_value hft e))
  · exact Nat.not_lt.1 (of_decide_eq_false (choiceBad_value hff e))

theorem engineSetHead_moves (q : Req) (head : Nat) (enabled : Choice Bool) (hold : Choice Nat) (cap : CapChoice) (s : State) :
    EngineMoves s (engineSetHead q head enabled hold cap s).state := by
  unfold engineSetHead
  refine moves_check fun hw => ?_
  split
  · exact .refl
  · refine moves_check fun hf => EngineMove.once (.headItems (by simpa using hw) fun v e => ?_)
    subst e
    simp only [capBad, Bool.or_eq_true, not_or, decide_eq_true_eq] at hf
    simp only [maxPool] at hf
    omega

theorem engineCommission_moves (q : Req) (licence ceiling threshold : Nat) (s : State) :
    EngineMoves s (engineCommission q licence ceiling threshold s).state := by
  unfold engineCommission
  refine moves_check fun hs => moves_check fun hf => moves_check fun hc => ?_
  simp only [maxLicence, maxPool] at hf
  exact EngineMove.once (.commission (by tauto) (by omega) (by omega) (by omega))

theorem engineUnlock_moves (q : Req) (s : State) : EngineMoves s (engineUnlock q s).state := by
  unfold engineUnlock
  exact moves_check fun hs => moves_check fun hf => moves_check fun hc => EngineMove.once (.unlock (by simpa using hs))

/-- A priced lane holds its reserve and its pieces (R24). -/
theorem priceLane_ok {rates : Tab RateClass 64} {cls : ClassNo} {pieces : Nat} {l : Lane}
    (h : priceLane rates cls pieces = .ok l) : LanePriced l ∧ l.pieces = pieces := by
  unfold priceLane at h
  split at h
  · cases h
  · split at h
    · split at h
      · cases h
      · cases h; exact ⟨rfl, rfl⟩
    · split at h
      · cases h
      · cases h; exact ⟨rfl, rfl⟩

/-- The format checks of R42 leave 9,999 pieces a lane at most. -/
theorem reserveBad_pieces {b : ReserveBody} (hb : reserveBad b = false) :
    b.piecesA ≤ 9999 ∧ (b.groups = 3 → b.piecesB ≤ 9999) := by
  simp [reserveBad, lanePartBad] at hb
  simp only [maxPieces] at hb
  omega

/-- The lanes of a checked body are priced and within 9,999 pieces (R23, R42). -/
theorem priceLanes_ok {rates : Tab RateClass 64} {b : ReserveBody} {lanes : Lane × Option Lane} (hb : reserveBad b = false)
    (h : priceLanes rates b = .ok lanes) :
    (LanePriced lanes.1 ∧ lanes.1.pieces ≤ 9999) ∧ ∀ l, lanes.2 = some l → LanePriced l ∧ l.pieces ≤ 9999 := by
  obtain ⟨hA, hB⟩ := reserveBad_pieces hb
  unfold priceLanes at h
  split at h
  · cases h
  · rename_i a ha
    obtain ⟨pa, ea⟩ := priceLane_ok ha
    split at h
    · rename_i hg
      split at h
      · cases h
      · rename_i l hl
        obtain ⟨pl, el⟩ := priceLane_ok hl
        cases h
        refine ⟨⟨pa, ea.trans_le hA⟩, fun l' e => ?_⟩
        cases e
        exact ⟨pl, el.trans_le (hB hg)⟩
    · cases h
      exact ⟨⟨pa, ea.trans_le hA⟩, fun l e => by cases e⟩

theorem reserveFor_moves (h : Head) (b : ReserveBody) (s : State) : EngineMoves s (reserveFor h b s).state := by
  unfold reserveFor
  refine moves_check fun hs => moves_check fun he => moves_check fun hn => moves_check fun hb => ?_
  split
  · exact .refl
  · rename_i lanes hl
    obtain ⟨pa, pb⟩ := priceLanes_ok (by simpa using hb) hl
    refine moves_check fun hh => ?_
    split
    · exact .refl
    · rename_i k hk
      refine moves_check fun hj => moves_check fun hf => moves_check fun ha => moves_check fun hc => ?_
      have free : s.slots.get k = none := by simpa using (Tab.first_eq_some.1 hk).1
      exact EngineMove.once (.reserve (by simpa using hs) pa pb free (by simpa [headLimit] using hh) hj
        (by simpa [newRecord] using hf) (by simpa [newRecord, maxAscending] using ha))

theorem engineReserve_moves (q : Req) (b : ReserveBody) (s : State) : EngineMoves s (engineReserve q b s).state := by
  unfold engineReserve
  split
  · exact reserveFor_moves _ b s
  · exact .refl

theorem answerFromRing_state (h : Head) (tag : Nat) (s : State) : (answerFromRing h tag s).state = s := by
  unfold answerFromRing; split <;> rfl

theorem commitFor_moves (h : Head) (b : CommitBody) (s : State) : EngineMoves s (commitFor h b s).state := by
  unfold commitFor
  refine moves_check fun hs => moves_check fun hb => ?_
  split
  · rw [answerFromRing_state]
  · rename_i k o hk
    refine moves_check fun ho => moves_check fun hg => moves_check fun ha => moves_check fun hlb => ?_
    exact (EngineMoves.countEvents _ _ _).head (.settle (pa := b.piecesA) (pb := commitPiecesB o b)
      (findTag_eq_some hk).1 (.inl rfl) (by omega) (by omega) rfl (.inl (by rw [workImprint_commitPiecesB]))
      (by rw [workImprint_commitPiecesB]))

theorem engineCommit_moves (q : Req) (b : CommitBody) (s : State) : EngineMoves s (engineCommit q b s).state := by
  unfold engineCommit
  split
  · exact commitFor_moves _ b s
  · exact .refl

theorem engineCancel_moves (q : Req) (tag : Nat) (s : State) : EngineMoves s (engineCancel q tag s).state := by
  unfold engineCancel
  split
  · refine moves_check fun hs => moves_check fun hf => ?_
    split
    · rw [answerFromRing_state]
    · rename_i k o hk
      exact moves_check fun ho => EngineMove.once (.cancel (findTag_eq_some hk).1)
  · exact .refl

theorem engineListOpen_state (q : Req) (head : Option Nat) (s : State) : (engineListOpen q head s).state = s := by
  unfold engineListOpen
  repeat' split
  all_goals rfl

theorem engineCompare_state (q : Req) (x y pieces : Nat) (residue : ResidueChoice) (s : State) :
    (engineCompare q x y pieces residue s).state = s := by
  unfold engineCompare
  repeat' split
  all_goals rfl

theorem engineSetRate_moves (q : Req) (cls : Nat) (f : RateFields) (e : Nat) (s : State) :
    EngineMoves s (engineSetRate q cls f e s).state := by
  unfold engineSetRate
  refine moves_check fun hw => moves_check fun hf => ?_
  split
  · exact .refl
  · exact EngineMove.once (.rate (by simpa using hw))

theorem engineWithdrawRate_moves (q : Req) (cls e : Nat) (s : State) : EngineMoves s (engineWithdrawRate q cls e s).state := by
  unfold engineWithdrawRate
  refine moves_check fun hw => ?_
  split
  · exact .refl
  · exact moves_check fun hf => EngineMove.once (.rate (by simpa using hw))

theorem engineRefill_moves (q : Req) (serial amount licence : Nat) (s : State) :
    EngineMoves s (engineRefill q serial amount licence s).state := by
  unfold engineRefill
  refine moves_check fun hb => moves_check fun hf => moves_check fun hd => moves_check fun hn => moves_check fun hl =>
    moves_check fun hs => moves_check fun hc => moves_check fun ht => moves_check fun hj => ?_
  simp only [max32] at hf
  simp only [maxTotal] at ht
  have m : EngineMove s (refillMovement serial amount s) :=
    .refill (by simpa using hs) (by simpa using hn) (by omega) (by omega) (by omega) hj
  simp only [accept]
  rw [acceptRefill_eq]
  exact ((EngineMoves.countEvents _ _ _).head m).tail (.raise (by decide))

theorem engineReturnCredit_moves (q : Req) (amount : Nat) (s : State) : EngineMoves s (engineReturnCredit q amount s).state := by
  unfold engineReturnCredit
  refine moves_check fun hs => moves_check fun hf => moves_check fun hj => moves_check fun hd => ?_
  exact EngineMove.once (.giveBack (by simpa using hs) (by omega) hj)

theorem engineDecommission_moves (q : Req) (s : State) : EngineMoves s (engineDecommission q s).state := by
  unfold engineDecommission
  refine moves_check fun hs => moves_check fun hf => moves_check fun ho => moves_check fun hj => ?_
  exact EngineMove.once (.decommission (by simpa using hs) (by simpa using ho) hj)

theorem engineStockDefine_moves (q : Req) (entry d : Nat) (s : State) : EngineMoves s (engineStockDefine q entry d s).state := by
  unfold engineStockDefine
  refine moves_check fun hw => ?_
  split
  · exact .refl
  · refine moves_check fun hf => moves_check fun hu => ?_
    exact EngineMove.once (.define (by simpa using hw) (by simpa using hu) (by omega))

theorem engineStockRetire_moves (q : Req) (entry : Nat) (s : State) : EngineMoves s (engineStockRetire q entry s).state := by
  unfold engineStockRetire
  refine moves_check fun hw => ?_
  split
  · exact .refl
  · refine moves_check fun hf => ?_
    split
    · exact moves_check fun ho => EngineMove.once (.retire (by simpa using hw) ‹_›)
    · exact .refl

theorem engineStockReceive_moves (q : Req) (entry n : Nat) (s : State) : EngineMoves s (engineStockReceive q entry n s).state := by
  unfold engineStockReceive
  refine moves_check fun hs => ?_
  split
  · exact .refl
  · refine moves_check fun hf => ?_
    split
    · rename_i d hd
      refine moves_check fun hl => moves_check fun hj => moves_check fun hv => ?_
      split
      · exact .refl
      · simp only [maxCount] at hl
        exact EngineMove.once (.receiveStamps (by simpa using hs) hd (by omega) hj (by omega))
    · exact .refl

theorem engineStockMove_moves (issue : Bool) (q : Req) (entry n : Nat) (s : State) :
    EngineMoves s (engineStockMove issue q entry n s).state := by
  unfold engineStockMove
  refine moves_check fun hw => ?_
  split
  · exact .refl
  · refine moves_check fun hf => ?_
    split
    · rename_i d hd
      refine moves_check fun hl => moves_check fun hj => ?_
      exact EngineMove.once (.moveStamps (by simpa using hw) hd (by omega) hj)
    · exact .refl

theorem countShelf_moves {e : EntryNo} {k : Nat} {s : State} (working : isWorking s.service.state = true)
    (used : (s.stock.get e).state ≠ .unused) (inRange : k ≤ 99999999) : EngineMoves s (countShelf e k s) := by
  have m : EngineMoves s (modStock e (countedEntry k s.pool.day) s) := EngineMove.once (.countShelf working used inRange)
  unfold countShelf
  simp only
  split
  · exact m
  · exact m.tail (.raise (by decide))

theorem engineStockCount_moves (q : Req) (entry k : Nat) (s : State) : EngineMoves s (engineStockCount q entry k s).state := by
  unfold engineStockCount
  refine moves_check fun hw => ?_
  split
  · exact .refl
  · refine moves_check fun hf => moves_check fun hu => ?_
    simp only [maxCount] at hf
    exact countShelf_moves (by simpa using hw) hu (by omega)

theorem engineStockClearMismatch_moves (q : Req) (entry : Nat) (s : State) :
    EngineMoves s (engineStockClearMismatch q entry s).state := by
  unfold engineStockClearMismatch
  refine moves_check fun hw => ?_
  split
  · exact .refl
  · exact moves_check fun hf => EngineMove.once (.clearMismatch (by simpa using hw))

theorem engineJournalAck_moves (q : Req) (n : Nat) (s : State) : EngineMoves s (engineJournalAck q n s).state := by
  unfold engineJournalAck
  exact moves_check fun hf => moves_check fun hn => EngineMove.once (.acknowledge (Nat.not_lt.1 hn))

theorem raiseTariff_moves (n day : Nat) (s : State) : EngineMoves s (raiseTariff n day s) := by
  unfold raiseTariff
  split
  · exact .refl
  · exact EngineMove.once (.raise (by decide))

theorem engineDayClose_moves (q : Req) (day : Nat) (s : State) : EngineMoves s (engineDayClose q day s).state := by
  unfold engineDayClose
  refine moves_check fun hw => moves_check fun hf => moves_check fun hd => moves_check fun hl => moves_check fun hj => ?_
  simp only [max32] at hl
  have m : EngineMove s (closeMovement s) := .close (by simpa using hw) hl hj
  simp only [accept]
  rw [closeDay_eq]
  exact ((raiseTariff_moves _ _ _).head m).trans (EngineMoves.countEvents _ _ _)

/-- Control fields that pass line 4 of R130 hold a prescale of 100 with the source PIECES alone. -/
theorem controlsOf_prescale {f : ControlFields} {g : Controls} (h : controlsOf f = some g) :
    g.prescale = .hundred → g.source = .pieces := by
  unfold controlsOf at h
  split at h
  · split at h
    · cases h
    · rename_i hbad
      cases h
      simp only [Bool.or_eq_true, not_or, Bool.and_eq_true, decide_eq_true_eq, not_and, not_not] at hbad
      exact hbad.2
  · cases h

/-- An operation that line 4 of R130 takes loads at most 65,535. -/
theorem operationOf_load {op : Coded WatchOp} {n : Nat} (h : operationOf op = some (.load n)) : n ≤ 65535 := by
  unfold operationOf at h
  split at h
  · split at h
    · cases h
    · cases h; omega
  · rename_i o hne; cases h; exact absurd rfl (hne n)
  · cases h

theorem engineWatchSet_moves (q : Req) (channel : Nat) (f : ControlFields) (op : Coded WatchOp) (s : State) :
    EngineMoves s (engineWatchSet q channel f op s).state := by
  unfold engineWatchSet
  refine moves_check fun hw => ?_
  split
  · exact .refl
  · refine moves_check fun hf => moves_check fun hp => ?_
    split
    · rename_i hf ho
      exact EngineMove.once (.program (by simpa using hw) (controlsOf_prescale hf) fun n e => operationOf_load (e ▸ ho))
    · exact .refl

theorem engineWatchRelease_moves (q : Req) (channel : Nat) (s : State) :
    EngineMoves s (engineWatchRelease q channel s).state := by
  unfold engineWatchRelease
  refine moves_check fun hw => ?_
  split
  · exact .refl
  · exact moves_check fun hf => moves_check fun hp => EngineMove.once (.release (by simpa using hw))

theorem engineNoticeDone_moves (q : Req) (s : State) : EngineMoves s (engineNoticeDone q s).state := by
  unfold engineNoticeDone
  refine moves_check fun hf => ?_
  split
  · exact .refl
  · exact EngineMove.once (.done ‹_›)

theorem engineNoticeHold_moves (q : Req) (n : Nat) (s : State) : EngineMoves s (engineNoticeHold q n s).state := by
  unfold engineNoticeHold
  exact moves_check fun hf => EngineMove.once (.hold (by omega))

theorem engineNoticeNesting_moves (q : Req) (o : Coded Bool) (s : State) :
    EngineMoves s (engineNoticeNesting q o s).state := by
  unfold engineNoticeNesting
  split
  · exact moves_check fun hf => EngineMove.once .nesting
  · exact .refl

theorem engineClearFault_moves (q : Req) (s : State) : EngineMoves s (engineClearFault q s).state := by
  unfold engineClearFault
  exact moves_check fun hf => EngineMove.once (.fault clearedFault fun _ _ => rfl)

theorem engineFaultEnable_moves (q : Req) (a b c d : EnableChoice) (s : State) :
    EngineMoves s (engineFaultEnable q a b c d s).state := by
  unfold engineFaultEnable
  exact moves_check fun hf => EngineMove.once (.fault (enabledFault a b c d) fun _ h => h)

/-- An engine that leaves the state makes no movement. -/
theorem moves_of_eq {s t : State} (h : t = s) : EngineMoves s t := h ▸ .refl

/-- The engine's part of a request that neither takes a source nor sets a level is a sequence of its movements. -/
theorem engineOf_moves {c : Instr} (ht : ∀ q, c ≠ .takeNotice q) (hl : ∀ q n l, c ≠ .noticeLevel q n l) (s : State) :
    EngineMoves s (engineOf c s).state := by
  cases c with
  | setLimits q c t f => exact engineSetLimits_moves q c t f s
  | setHead q head enabled hold cap => exact engineSetHead_moves q head enabled hold cap s
  | commission q licence ceiling threshold => exact engineCommission_moves q licence ceiling threshold s
  | unlock q => exact engineUnlock_moves q s
  | reserve q b => exact engineReserve_moves q b s
  | commit q b => exact engineCommit_moves q b s
  | cancel q tag => exact engineCancel_moves q tag s
  | listOpen q head => exact moves_of_eq (engineListOpen_state q head s)
  | compare q x y pieces residue => exact moves_of_eq (engineCompare_state q x y pieces residue s)
  | setRate q cls f e => exact engineSetRate_moves q cls f e s
  | withdrawRate q cls e => exact engineWithdrawRate_moves q cls e s
  | refill q serial amount licence => exact engineRefill_moves q serial amount licence s
  | returnCredit q amount => exact engineReturnCredit_moves q amount s
  | decommission q => exact engineDecommission_moves q s
  | stockDefine q entry d => exact engineStockDefine_moves q entry d s
  | stockRetire q entry => exact engineStockRetire_moves q entry s
  | stockReceive q entry n => exact engineStockReceive_moves q entry n s
  | stockIssue q entry n => exact engineStockMove_moves true q entry n s
  | stockSpoil q entry n => exact engineStockMove_moves false q entry n s
  | stockCount q entry k => exact engineStockCount_moves q entry k s
  | stockClearMismatch q entry => exact engineStockClearMismatch_moves q entry s
  | journalAck q n => exact engineJournalAck_moves q n s
  | dayClose q day => exact engineDayClose_moves q day s
  | watchSet q channel f op => exact engineWatchSet_moves q channel f op s
  | watchRelease q channel => exact engineWatchRelease_moves q channel s
  | takeNotice q => exact absurd rfl (ht q)
  | noticeDone q => exact engineNoticeDone_moves q s
  | noticeHold q n => exact engineNoticeHold_moves q n s
  | noticeLevel q n l => exact absurd rfl (hl q n l)
  | noticeNesting q o => exact engineNoticeNesting_moves q o s
  | clearFault q => exact engineClearFault_moves q s
  | faultEnable q a b c d => exact engineFaultEnable_moves q a b c d s
  | poolRead q => exact moves_check fun _ => .refl
  | serviceRead q => exact moves_check fun _ => .refl
  | refillLogRead q offset count => exact moves_check fun _ => .refl
  | journalRead q offset count => exact moves_check fun _ => .refl
  | faultRead q => exact moves_check fun _ => .refl
  | headRead q head => exact moves_of_eq (by simp only [engineOf, engineHeadRead]; (repeat' split) <;> rfl)
  | rateRead q cls => exact moves_of_eq (by simp only [engineOf, engineRateRead]; (repeat' split) <;> rfl)
  | stockRead q entry => exact moves_of_eq (by simp only [engineOf, engineStockRead]; (repeat' split) <;> rfl)
  | watchRead q channel => exact moves_of_eq (by simp only [engineOf, engineWatchRead]; (repeat' split) <;> rfl)
  | dayLogRead q p => exact moves_of_eq (by simp only [engineOf, engineDayLogRead]; (repeat' split) <;> rfl)
  | _ => exact .refl

end Sys2Proof.Machine
end

section
/-! Every command is a sequence of the part's movements: the course of a request around its engine, the transactions of a
link, and the events. -/

namespace Sys2Proof.Machine

open Sys2Proof.Config Sys2Proof.Safety

/-! ### The engine and the links -/

/-- A movement of the engine leaves every slot. -/
theorem EngineMove.slot {s t : State} (m : EngineMove s t) (p : Port) : (t.links.get p).slot = (s.links.get p).slot := by
  cases m with
  | fault f kept => simp only [modLink_links, Tab.get_modify]; split <;> rfl
  | _ =>
    simp [openRecord, takeClaim, cancelRecord, releaseClaim, Machine.settle, writeClaimed, writeEntry, refillMovement,
      returnToGateway, Machine.receiveStamps, Machine.moveStamps, closeMovement, releaseChannel]

theorem EngineMoves.slot {s t : State} (m : EngineMoves s t) (p : Port) : (t.links.get p).slot = (s.links.get p).slot := by
  induction m with
  | refl => rfl
  | tail _ m ih => exact (m.slot p).trans ih

/-- What an eligible source of a port meets (R148). -/
theorem chosenSource_spec {u : NoticeUnit} {p : Port} {n : SourceNo} (h : chosenSource u p = some n) :
    sourceDest n = p ∧ (u.pending.get n).isSome = true ∧ stackTop (u.ports.get p).stack < sourceLevel u n := by
  have mem : ∀ (l : List SourceNo) (best : Option SourceNo), l.foldl (betterSource u) best = some n → n ∈ l ∨ best = some n := by
    intro l
    induction l with
    | nil => exact fun best h => .inr h
    | cons a l ih =>
      intro best h
      rcases ih _ h with h | h
      · exact .inl (List.mem_cons_of_mem _ h)
      · rcases mem_betterSource (u := u) (b := n) (best := best) (a := a) (by rw [h]; rfl) with h | h
        · exact .inr h
        · exact .inl (h ▸ List.mem_cons_self)
  rcases mem _ _ h with h | h
  · exact mem_candidates.1 h
  · cases h

/-- A TAKE_NOTICE leaves the state, or takes a source that is eligible at its port (R149). -/
theorem engineTakeNotice_state (q : Req) (s : State) :
    (engineTakeNotice q s).state = s ∨ ∃ n, (engineTakeNotice q s).state = takeSource q.port n s ∧
      sourceDest n = q.port ∧ (s.notices.pending.get n).isSome = true ∧
      stackTop (s.notices.ports.get q.port).stack < sourceLevel s.notices n := by
  unfold engineTakeNotice
  split
  · exact .inl rfl
  · split
    · exact .inl rfl
    · rename_i n hn
      split
      · exact .inl rfl
      · exact .inr ⟨n, rfl, chosenSource_spec hn⟩

/-- A NOTICE_LEVEL leaves the state, or sets one level to 7 at most (R147). -/
theorem engineNoticeLevel_state (q : Req) (source level : Nat) (s : State) :
    (engineNoticeLevel q source level s).state = s ∨
      ∃ n l, l ≤ 7 ∧ (engineNoticeLevel q source level s).state = modNotices (setLevel n l) s := by
  unfold engineNoticeLevel
  split
  · exact .inl rfl
  · simp only
    split
    · exact .inl rfl
    · split
      · exact .inl rfl
      · exact .inr ⟨_, _, Nat.min_le_right _ _, rfl⟩

/-- The engine's part of any request is a sequence of movements that leave every slot. -/
theorem engineOf_all (c : Instr) (s : State) :
    Moves s (engineOf c s).state ∧ ∀ p, ((engineOf c s).state.links.get p).slot = (s.links.get p).slot := by
  by_cases ht : ∃ q, c = .takeNotice q
  · obtain ⟨q, rfl⟩ := ht
    simp only [engineOf]
    rcases engineTakeNotice_state q s with e | ⟨n, e, dest, waits, above⟩
    · rw [e]; exact ⟨.refl, fun _ => rfl⟩
    · rw [e]; exact ⟨Move.once (.take dest waits above), fun _ => rfl⟩
  · by_cases hl : ∃ q n l, c = .noticeLevel q n l
    · obtain ⟨q, n, l, rfl⟩ := hl
      simp only [engineOf]
      rcases engineNoticeLevel_state q n l s with e | ⟨n, l, inRange, e⟩
      · rw [e]; exact ⟨.refl, fun _ => rfl⟩
      · rw [e]; exact ⟨Move.once (.level inRange), fun _ => rfl⟩
    · have m := engineOf_moves (fun q e => ht ⟨q, e⟩) (fun q n l e => hl ⟨q, n, l, e⟩) s
      exact ⟨m.moves, m.slot⟩

/-! ### The links and the course of a request -/

/-- A change of one link that keeps R170 and R155. -/
theorem modLink_moves {p : Port} {f : PortLink → PortLink} {s : State} (kept : LinkKept (s.links.get p) → LinkKept (f (s.links.get p))) :
    Moves s (modLink p f s) := Move.once (.link _ kept)

/-- A raise of any source. -/
theorem raiseSource_moves (n : SourceNo) (d : Detail) (s : State) : Moves s (raiseSource n d s) := by
  by_cases h : n = srcLowCredit
  · subst h; exact Move.once .lowCredit
  · exact Move.once (.engine (.raise h))

theorem recordRefusal_moves (p : Port) (code : ReplyCode) (number : Option Byte) (s : State) :
    Moves s (recordRefusal p code number s) := by
  unfold recordRefusal
  split
  · exact (modLink_moves fun h => ⟨h.apart, rfl⟩).trans (raiseSource_moves _ _ _)
  · exact .refl

theorem recordRefusal_slot (p : Port) (code : ReplyCode) (number : Option Byte) (s : State) (p' : Port) :
    ((recordRefusal p code number s).links.get p').slot = (s.links.get p').slot := by
  unfold recordRefusal
  split
  · simp only [raiseSource_links, modLink_links, Tab.get_modify]; split <;> rfl
  · rfl

/-- A reply reaches an empty slot's port (R173). -/
theorem placeReply_moves {p : Port} {r : Reply} {s : State} (h : (s.links.get p).slot = none) :
    Moves s (modLink p (fun l => { l with reply := some r }) s) := modLink_moves fun k => ⟨.inl h, k.fault⟩

theorem evaluateLowCredit_moves (s : State) : Moves s (evaluateLowCredit s) := by
  unfold evaluateLowCredit
  split
  · exact .refl
  · rename_i present
    split
    · split
      · exact (Move.once (.arm present)).trans (raiseSource_moves _ _ _)
      · exact .refl
    · exact Move.once (.arm present)

theorem linkAnswer_moves {p : Port} {code : ReplyCode} {number : Option Byte} {s : State} (h : (s.links.get p).slot = none) :
    Moves s (linkAnswer p code number s) := (placeReply_moves h).trans (recordRefusal_moves _ _ _ _)

theorem takeFrame_moves (p : Port) (s : State) : Moves s (takeFrame p s) := modLink_moves fun k => ⟨.inr rfl, k.fault⟩

@[simp] theorem takeFrame_slot (p : Port) (s : State) : ((takeFrame p s).links.get p).slot = (s.links.get p).slot := by
  simp [takeFrame]

theorem fillSlot_moves (p : Port) (w : SlotContent) (s : State) : Moves s (fillSlot p w (takeFrame p s)) :=
  (takeFrame_moves p s).trans (modLink_moves fun k => ⟨.inr (by simp [takeFrame]), k.fault⟩)

theorem discardFrame_moves (p : Port) (s : State) : Moves s (discardFrame p s) := modLink_moves fun k => ⟨k.apart, k.fault⟩

theorem clockOut_moves (p : Port) (data : List Byte) (s : State) : Moves s (clockOut p data s) :=
  modLink_moves fun k => ⟨k.apart, k.fault⟩

theorem releaseOut_moves (p : Port) (s : State) : Moves s (releaseOut p s) := modLink_moves fun k => ⟨k.apart, k.fault⟩

theorem conclude_moves (c : Instr) (q : Req) {s : State} (h : (s.links.get q.port).slot = none) :
    Moves s (conclude c q (engineOf c s)) := by
  obtain ⟨m, slots⟩ := engineOf_all c s
  refine ((m.trans (recordRefusal_moves _ _ _ _)).trans (placeReply_moves ?_)).trans (evaluateLowCredit_moves _)
  rw [recordRefusal_slot, slots, h]

theorem atTurn_moves (c : Instr) (q : Req) (s : State) : Moves s (atTurn c q (engineOf c) s) := by
  unfold atTurn execute
  split
  · exact (Move.once .grant).trans (conclude_moves c q (by simp))
  · exact .refl

theorem serve_moves (c : Instr) (q : Req) (s : State) : Moves s (serve c q (engineOf c) s) := by
  unfold serve
  split
  · exact .refl
  · split
    · rename_i empty
      have answer : ∀ code, Moves s (linkAnswer q.port code (some q.number) (takeFrame q.port s)) := fun code =>
        (takeFrame_moves q.port s).trans (linkAnswer_moves (by simpa using empty))
      simp only
      split
      · exact answer _
      · split
        · exact answer _
        · exact (fillSlot_moves _ _ s).trans (atTurn_moves c q _)
    · split
      · exact atTurn_moves c q s
      · exact discardFrame_moves _ s

theorem receiveFrame_moves (p : Port) (f : List Byte) (s : State) : Moves s (receiveFrame p f s) := by
  unfold receiveFrame
  split
  · exact discardFrame_moves p s
  · rename_i h
    have empty : (s.links.get p).slot = none := by simpa using h
    have answer : ∀ code, Moves s (linkAnswer p code f[2]? (takeFrame p s)) := fun code =>
      (takeFrame_moves p s).trans (linkAnswer_moves (by simpa using empty))
    simp only
    split
    · exact answer _
    · split
      · exact answer _
      · exact fillSlot_moves p _ s

/-! ### The events -/

theorem restartCharge_moves (s : State) (k : SlotNo) : Moves s (restartCharge s k) := by
  unfold restartCharge
  split
  · exact (forfeit_moves ‹_› (.inr (.inr rfl))).moves
  · exact .refl

theorem restartCharges_moves (ks : List SlotNo) (s : State) : Moves s (ks.foldl restartCharge s) := by
  induction ks generalizing s with
  | nil => exact .refl
  | cons k ks ih => exact (restartCharge_moves s k).trans (ih _)

theorem tamperSeen_moves (s : State) : Moves s (tamperSeen s) :=
  (Move.once (.inputs (fun v => { v with tamperActive := true }) fun _ => ⟨rfl, rfl⟩)).trans (Move.once (.alarm (by decide)))

theorem supplySeenLow_moves (s : State) : Moves s (supplySeenLow s) :=
  (Move.once (.inputs (fun v => { v with supplyLow := true }) fun _ => ⟨rfl, rfl⟩)).trans (Move.once (.alarm (by decide)))

theorem sampleTamper_moves (active : Bool) (s : State) : Moves s (sampleTamper active s) := by
  unfold sampleTamper
  split
  · exact tamperSeen_moves s
  · exact Move.once (.inputs _ fun _ => ⟨rfl, rfl⟩)

theorem sampleSupply_moves (low : Bool) (s : State) : Moves s (sampleSupply low s) := by
  unfold sampleSupply
  split
  · exact supplySeenLow_moves s
  · exact Move.once (.inputs _ fun _ => ⟨rfl, rfl⟩)

theorem execTimeBaseSecond_moves (s : State) : ∃ t, execTimeBaseSecond s = .next t ∧ Moves s t := by
  refine ⟨_, rfl, ?_⟩
  split
  · exact .refl
  · split
    · exact Move.once (.inputs _ fun _ => ⟨rfl, rfl⟩)
    · exact Move.once .second

theorem execHoldFallsDue_moves (k : SlotNo) (s : State) : ∃ t, execHoldFallsDue k s = .next t ∧ Moves s t := by
  refine ⟨_, rfl, ?_⟩
  split
  · rename_i h
    have due := (Tab.first_eq_some.1 h.2).1
    cases slot : s.slots.get k with
    | none => rw [slot] at due; cases due
    | some o => exact Move.once (.hand slot)
  · exact .refl

theorem execHoldExpiry_moves (k : SlotNo) (s : State) : ∃ t, execHoldExpiry k s = .next t ∧ Moves s t := by
  refine ⟨_, rfl, ?_⟩
  split
  · split
    · rename_i o slot
      have m : Moves s (takeExpiry k o s) := (forfeit_moves slot (.inr (.inl rfl))).moves.trans (raiseSource_moves _ _ _)
      exact m.trans (Move.once .place)
    · exact .refl
  · exact .refl

theorem execTimeBaseTimeout_moves (s : State) : ∃ t, execTimeBaseTimeout s = .next t ∧ Moves s t := by
  refine ⟨_, rfl, ?_⟩
  split
  · exact .refl
  · exact (Move.once (.inputs (fun v => { v with timeBaseLost := true }) fun _ => ⟨rfl, rfl⟩)).trans
      (Move.once (.alarm (by decide)))

theorem execWatchChannelZero_moves (c : ChannelNo) (ev : SourceEvent) (s : State) :
    ∃ t, execWatchChannelZero c ev s = .next t ∧ Moves s t := by
  refine ⟨_, rfl, ?_⟩
  split
  · rename_i h
    obtain ⟨-, running, -, last⟩ := h
    have e : receiveEvent c ev s = channelZero c ev s := by simp [receiveEvent, running, last]
    rw [← e]
    exact Move.once (.engine .receive)
  · exact .refl

/-- Every command ends in a next state, which its movements lead to. -/
theorem exec_moves (c : Instr) (s : State) : ∃ t, exec c s = .next t ∧ Moves s t := by
  cases h : requestHeader c with
  | some q => exact ⟨_, exec_request h s, serve_moves c q s⟩
  | none =>
    cases c with
    | status p selector =>
      refine ⟨_, rfl, ?_⟩
      split
      · exact releaseOut_moves p s
      · exact clockOut_moves p _ s
    | send p frame =>
      refine ⟨_, rfl, ?_⟩
      split
      · exact releaseOut_moves p s
      · split
        · exact clockOut_moves p _ s
        · exact (clockOut_moves p _ s).trans (receiveFrame_moves p frame _)
    | read p extent =>
      refine ⟨_, rfl, ?_⟩
      split
      · exact releaseOut_moves p s
      · split
        · exact clockOut_moves p _ s
        · simp only
          split
          · exact (clockOut_moves p _ s).trans (modLink_moves fun k => ⟨.inr rfl, k.fault⟩)
          · exact clockOut_moves p _ s
    | watchChannelZero c ev => exact execWatchChannelZero_moves c ev s
    | holdCountEnd p =>
      refine ⟨_, rfl, ?_⟩
      split
      · exact Move.once (.engine (.hold (Nat.zero_le _)))
      · exact .refl
    | timeBaseSecond => exact execTimeBaseSecond_moves s
    | holdFallsDue k => exact execHoldFallsDue_moves k s
    | holdExpiry k => exact execHoldExpiry_moves k s
    | timeBaseTimeout => exact execTimeBaseTimeout_moves s
    | tamperInputActive =>
      refine ⟨_, rfl, ?_⟩
      split
      · exact .refl
      · exact tamperSeen_moves s
    | tamperInputInactive =>
      refine ⟨_, rfl, ?_⟩
      split
      · exact .refl
      · exact Move.once (.inputs _ fun _ => ⟨rfl, rfl⟩)
    | supplyLowInput =>
      refine ⟨_, rfl, ?_⟩
      split
      · exact .refl
      · exact supplySeenLow_moves s
    | supplyAdequateInput =>
      refine ⟨_, rfl, ?_⟩
      split
      · exact .refl
      · exact Move.once (.inputs _ fun _ => ⟨rfl, rfl⟩)
    | resetAsserted => exact ⟨_, rfl, Move.once .holdReset⟩
    | restart tamper low =>
      exact ⟨_, rfl, ((((Move.once .contexts).trans (restartCharges_moves _ _)).trans (Move.once .rearm)).trans
        (sampleTamper_moves tamper _)).trans (sampleSupply_moves low _)⟩
    | coldStart tamper low =>
      exact ⟨_, rfl, ((Move.once .cold).trans (sampleTamper_moves tamper _)).trans (sampleSupply_moves low _)⟩
    | _ => cases h

/-- What every movement keeps, and what the queue of commands does not matter to, every step keeps. -/
theorem step_keeps {P : State → Prop} (queue : ∀ s cs, P s → P { s with pending := cs })
    (move : ∀ s t, Move s t → P s → P t) {s t : State} (hs : P s) (h : step s = .next t) : P t := by
  unfold step at h
  split at h
  · cases h; exact hs
  · rename_i c rest _
    obtain ⟨u, e, m⟩ := exec_moves c { s with pending := rest }
    rw [e] at h
    cases h
    clear e
    induction m with
    | refl => exact queue s rest hs
    | tail _ m ih => exact move _ _ m ih

end Sys2Proof.Machine
end

section
/-! The money of the site (chapters 1 and 2): no charge exceeds its reserve, and what every movement makes of the balance
of R4, the sums of R2 and R14, the priced records and the residues. -/

namespace Sys2Proof.Safety

open Sys2Proof.Machine Sys2Proof.Config

/-! ### Charges and reserves (R24, R26 to R30, R32) -/

theorem le_dearer (f : RateEntry → Nat) (c : RateEntry) (fb : Option RateEntry) : f c ≤ dearer f c fb := by
  cases fb with
  | none => exact Nat.le_refl _
  | some e => exact Nat.le_max_left _ _

theorem le_dearer_fallback (f : RateEntry → Nat) (c e : RateEntry) : f e ≤ dearer f c (some e) := Nat.le_max_right _ _

/-- The effective entry is at most as dear as the reserve was priced (R24, R26). -/
theorem effectiveEntry_le_dearer (f : RateEntry → Nat) (l : Lane) (p : Nat) :
    f (effectiveEntry l p).2 ≤ dearer f l.classCopy l.fallbackCopy := by
  unfold effectiveEntry
  cases h : l.fallbackCopy with
  | none => exact Nat.le_refl _
  | some e =>
    simp only
    split
    · exact le_dearer _ _ _
    · exact le_dearer_fallback _ _ _

/-- The charge under an entry is at most the gross figure rounded up, plus the supplement (R27, R28). -/
theorem entryCharge_le (e : RateEntry) (g : Nat) {r : Nat} (hr : r ≤ 9) :
    (entryCharge e g r).1 ≤ (g + 9) / 10 + e.supplement ∧ (entryCharge e g r).2 ≤ 9 := by
  cases h : e.rounding with
  | halfUp => rw [entryCharge_halfUp h]; exact ⟨by simp only; omega, hr⟩
  | chopCarry => rw [entryCharge_chopCarry h]; exact ⟨by simp only; omega, by simp only; omega⟩

/-- A lane's charge is within its reserve, and leaves a residue of 0 to 9 (R32). -/
theorem workLane_le {l : Lane} {p r : Nat} (priced : LanePriced l) (hp : p ≤ l.pieces) (hr : r ≤ 9) :
    (workLane l p r).charge ≤ l.reserve ∧ (workLane l p r).residue ≤ 9 := by
  rcases Nat.eq_zero_or_pos p with rfl | pos
  · exact ⟨Nat.zero_le _, hr⟩
  · rw [workLane_of_effectiveEntry pos rfl]
    have rate := effectiveEntry_le_dearer RateEntry.unitRate l p
    have supplement := effectiveEntry_le_dearer RateEntry.supplement l p
    obtain ⟨charge, residue⟩ := entryCharge_le (effectiveEntry l p).2 (p * (effectiveEntry l p).2.unitRate) hr
    refine ⟨charge.trans ?_, residue⟩
    rw [priced, laneReserve]
    have gross := Nat.mul_le_mul hp rate
    omega

/-- The charge of an imprint is within the total reserve of its lanes (R32). -/
theorem workImprint_le {a : Lane} {b : Option Lane} {pa pb r : Nat} (pricedA : LanePriced a)
    (pricedB : ∀ l, b = some l → LanePriced l) (hpa : pa ≤ a.pieces) (hpb : ∀ l, b = some l → pb ≤ l.pieces) (hr : r ≤ 9) :
    (workImprint a b pa pb r).charge ≤ totalReserve a b ∧ (workImprint a b pa pb r).residue ≤ 9 := by
  obtain ⟨chargeA, residueA⟩ := workLane_le pricedA hpa hr
  cases b with
  | none => exact ⟨chargeA, residueA⟩
  | some l =>
    obtain ⟨chargeB, residueB⟩ := workLane_le (pricedB l rfl) (hpb l rfl) residueA
    exact ⟨Nat.add_le_add chargeA chargeB, residueB⟩

/-- Settles O28: lane by lane, through the dearer figures that priced the reserve. -/
theorem chargeWithinReserve : Obligations.ChargeWithinReserve := by
  rintro o pa pb r ⟨pricedA, pricedB, total⟩ hpa hpb hr
  rw [total]
  exact workImprint_le pricedA pricedB hpa hpb hr

/-! ### What the money rests on -/

/-- What an open record says of the site's money. -/
def recordMoney (o : OpenImprint) : Head × Lane × Option Lane × Nat := (o.head, o.laneA, o.laneB, o.total)

/-- `s` and `t` agree in the money of the pool, the heads and the open records. -/
structure MoneySame (s t : State) : Prop where
  pool : t.pool.descending = s.pool.descending ∧ t.pool.reservedTotal = s.pool.reservedTotal ∧
    t.pool.fundedTotal = s.pool.fundedTotal ∧ t.pool.returnedTotal = s.pool.returnedTotal ∧
    t.pool.stockPurchaseTotal = s.pool.stockPurchaseTotal
  heads : ∀ h, (t.heads.get h).ascending = (s.heads.get h).ascending ∧
    (t.heads.get h).headReserved = (s.heads.get h).headReserved ∧ (t.heads.get h).residue = (s.heads.get h).residue
  slots : ∀ k, (t.slots.get k).map recordMoney = (s.slots.get k).map recordMoney

theorem reserveOf_of_money {x y : Option OpenImprint} (e : x.map recordMoney = y.map recordMoney) :
    reserveOf x = reserveOf y := by
  cases x <;> cases y <;> simp_all [recordMoney, reserveOf]

theorem reserveOfHead_of_money (h : Head) {x y : Option OpenImprint} (e : x.map recordMoney = y.map recordMoney) :
    reserveOfHead h x = reserveOfHead h y := by
  cases x <;> cases y <;> simp_all [recordMoney, reserveOfHead]

/-- A record of the same money in `t` stands in the same slot of `s`. -/
theorem MoneySame.slot {s t : State} (m : MoneySame s t) {k : SlotNo} {o : OpenImprint} (ho : t.slots.get k = some o) :
    ∃ o', s.slots.get k = some o' ∧ recordMoney o = recordMoney o' := by
  have e := m.slots k
  rw [ho] at e
  cases hs : s.slots.get k with
  | none => rw [hs] at e; cases e
  | some o' => rw [hs] at e; exact ⟨o', rfl, by simpa using e⟩

theorem RecordPriced.of_money {o o' : OpenImprint} (e : recordMoney o = recordMoney o') (h : RecordPriced o') :
    RecordPriced o := by
  obtain ⟨-, ea, eb, et⟩ : o.head = o'.head ∧ o.laneA = o'.laneA ∧ o.laneB = o'.laneB ∧ o.total = o'.total := by
    simpa [recordMoney] using e
  unfold RecordPriced
  rwa [ea, eb, et]

theorem CreditKept.of_same {s t : State} (h : CreditKept s) (m : MoneySame s t) : CreditKept t := by
  obtain ⟨descending, reserved, funded, returned, stock⟩ := m.pool
  refine ⟨?_, ?_, fun x => ?_, fun k o ho => ?_, fun x => ?_⟩
  · rw [descending, reserved, funded, returned, stock, Tab.sum_congr (u := s.heads) fun x => (m.heads x).1]
    exact h.balance
  · rw [reserved, h.reserved]
    exact (Tab.sum_congr fun k => reserveOf_of_money (m.slots k)).symm
  · rw [(m.heads x).2.1, h.headReserved]
    exact (Tab.sum_congr fun k => reserveOfHead_of_money x (m.slots k)).symm
  · obtain ⟨o', ho', e⟩ := m.slot ho
    exact (h.priced k o' ho').of_money e
  · rw [(m.heads x).2.2]; exact h.residues x

/-! ### The movements of a record and the money -/

/-- The sums of the slots after a record is placed in a FREE one. -/
theorem sum_reserveOf_open {slots : Tab (Option OpenImprint) 16} {k : SlotNo} (free : slots.get k = none) (o : OpenImprint) :
    (slots.set k (some o)).sum reserveOf = slots.sum reserveOf + o.total := by
  have e := slots.sum_set k (some o) reserveOf
  rw [free] at e
  simpa [reserveOf] using e

theorem sum_reserveOfHead_open {slots : Tab (Option OpenImprint) 16} {k : SlotNo} (free : slots.get k = none)
    (o : OpenImprint) (h : Head) :
    (slots.set k (some o)).sum (reserveOfHead h) = slots.sum (reserveOfHead h) + if o.head = h then o.total else 0 := by
  have e := slots.sum_set k (some o) (reserveOfHead h)
  rw [free] at e
  simpa [reserveOfHead] using e

/-- The sums of the slots after a record's slot becomes FREE. -/
theorem sum_reserveOf_close {slots : Tab (Option OpenImprint) 16} {k : SlotNo} {o : OpenImprint}
    (slot : slots.get k = some o) : (slots.set k none).sum reserveOf + o.total = slots.sum reserveOf := by
  have e := slots.sum_set k none reserveOf
  rw [slot] at e
  simpa [reserveOf] using e

theorem sum_reserveOfHead_close {slots : Tab (Option OpenImprint) 16} {k : SlotNo} {o : OpenImprint}
    (slot : slots.get k = some o) (h : Head) :
    (slots.set k none).sum (reserveOfHead h) + (if o.head = h then o.total else 0) = slots.sum (reserveOfHead h) := by
  have e := slots.sum_set k none (reserveOfHead h)
  rw [slot] at e
  simpa [reserveOfHead] using e

/-- A record's reserve is within the reserved total and its head's head reserved. -/
theorem CreditKept.total_le {s : State} (h : CreditKept s) {k : SlotNo} {o : OpenImprint} (slot : s.slots.get k = some o) :
    o.total ≤ s.pool.reservedTotal ∧ o.total ≤ (s.heads.get o.head).headReserved := by
  rw [h.reserved, h.headReserved]
  constructor
  · have e := s.slots.le_sum reserveOf k
    rwa [slot] at e
  · have e := s.slots.le_sum (reserveOfHead o.head) k
    rw [slot] at e
    simpa [reserveOfHead] using e

theorem CreditKept.openRecord {s : State} (h : CreditKept s) {k : SlotNo} {o : OpenImprint} (free : s.slots.get k = none)
    (priced : RecordPriced o) (funds : o.total ≤ s.pool.descending) : CreditKept (openRecord k o s) := by
  obtain ⟨_, _, e, -⟩ := openRecord_eq k o s
  rw [e]
  refine ⟨?_, ?_, fun x => ?_, fun j o' ho => ?_, fun x => ?_⟩
  · have b := h.balance
    simp only
    rw [Tab.sum_congr (u := s.heads) (f := HeadRecord.ascending) fun x => by rw [Tab.get_modify]; split <;> rfl]
    omega
  · simp only
    rw [sum_reserveOf_open free, h.reserved]
  · simp only
    rw [sum_reserveOfHead_open free, Tab.get_modify, ← h.headReserved]
    split
    · rename_i hx; subst hx; simp
    · rename_i hx; simp [Ne.symm hx]
  · simp only [Tab.get_set] at ho
    split at ho
    · cases ho; exact priced
    · exact h.priced j o' ho
  · simp only [Tab.get_modify]
    split <;> exact h.residues x

theorem CreditKept.cancelRecord {s : State} (h : CreditKept s) {k : SlotNo} {o : OpenImprint} (slot : s.slots.get k = some o) :
    CreditKept (cancelRecord k o s) := by
  obtain ⟨_, _, e, -⟩ := cancelRecord_eq k o s
  rw [e]
  obtain ⟨inTotal, inHead⟩ := h.total_le slot
  have sums := sum_reserveOf_close slot
  refine ⟨?_, ?_, fun x => ?_, fun j o' ho => ?_, fun x => ?_⟩
  · have b := h.balance
    simp only
    rw [Tab.sum_congr (u := s.heads) (f := HeadRecord.ascending) fun x => by rw [Tab.get_modify]; split <;> rfl]
    omega
  · have r := h.reserved
    simp only
    omega
  · have r := h.headReserved x
    have sumHead := sum_reserveOfHead_close slot x
    simp only [Tab.get_modify]
    split
    · rename_i hx; subst hx; simp only [if_true] at sumHead ⊢; omega
    · rename_i hx; simp only [Ne.symm hx, if_false] at sumHead; omega
  · simp only [Tab.get_set] at ho
    split at ho
    · cases ho
    · exact h.priced j o' ho
  · simp only [Tab.get_modify]
    split <;> exact h.residues x

theorem CreditKept.settle {s : State} (h : CreditKept s) {k : SlotNo} {o : OpenImprint} {kind : ClosureKind}
    {entry : EntryKind} {charge pieces residue : Nat} (slot : s.slots.get k = some o) (within : charge ≤ o.total)
    (digit : residue ≤ 9) : CreditKept (settle k o kind entry charge pieces residue s) := by
  rw [settle_eq]
  obtain ⟨inTotal, inHead⟩ := h.total_le slot
  have sums := sum_reserveOf_close slot
  have heads : (s.heads.modify o.head (settledHead o.tag kind o.total charge pieces residue)).sum HeadRecord.ascending =
      s.heads.sum HeadRecord.ascending + charge := by
    have e := s.heads.sum_set o.head (settledHead o.tag kind o.total charge pieces residue (s.heads.get o.head))
      HeadRecord.ascending
    simp only [settledHead_eq] at e
    rw [Tab.modify, settledHead_eq]
    omega
  refine ⟨?_, ?_, fun x => ?_, fun j o' ho => ?_, fun x => ?_⟩
  · have b := h.balance
    simp only
    rw [heads]
    omega
  · have r := h.reserved
    simp only
    omega
  · have r := h.headReserved x
    have sumHead := sum_reserveOfHead_close slot x
    simp only [Tab.get_modify]
    split
    · rename_i hx; subst hx; simp only [if_true, settledHead_eq] at sumHead ⊢; omega
    · rename_i hx; simp only [Ne.symm hx, if_false] at sumHead; omega
  · simp only [Tab.get_set] at ho
    split at ho
    · cases ho
    · exact h.priced j o' ho
  · simp only [Tab.get_modify]
    split
    · simp only [settledHead_eq]; exact digit
    · exact h.residues x

/-- What a settlement charges and leaves of the residue, when the pieces are within the reserved ones (R32). -/
theorem CreditKept.settled_le {s : State} (h : CreditKept s) {k : SlotNo} {o : OpenImprint} {pa pb : Nat}
    (slot : s.slots.get k = some o) (inA : pa ≤ o.laneA.pieces) (inB : pb ≤ (o.laneB.map Lane.pieces).getD 0) :
    (workImprint o.laneA o.laneB pa pb (s.heads.get o.head).residue).charge ≤ o.total ∧
      (workImprint o.laneA o.laneB pa pb (s.heads.get o.head).residue).residue ≤ 9 :=
  chargeWithinReserve o pa pb _ (h.priced k o slot) inA (fun l e => by simpa [e] using inB) (h.residues _)

/-- A movement of the pool that keeps the balance, and the money of the heads and records as it was. -/
theorem CreditKept.of_pool {s t : State} (h : CreditKept s) (reserved : t.pool.reservedTotal = s.pool.reservedTotal)
    (balance : t.pool.fundedTotal + (s.pool.returnedTotal + s.pool.descending + s.pool.stockPurchaseTotal) =
      s.pool.fundedTotal + (t.pool.returnedTotal + t.pool.descending + t.pool.stockPurchaseTotal))
    (heads : t.heads = s.heads) (slots : t.slots = s.slots) : CreditKept t := by
  refine ⟨?_, ?_, ?_, ?_, ?_⟩
  · have b := h.balance
    rw [heads, reserved]
    omega
  · rw [reserved, slots]; exact h.reserved
  · rw [heads, slots]; exact h.headReserved
  · rw [slots]; exact h.priced
  · rw [heads]; exact h.residues

/-! ### Every movement keeps the money -/

/-- The movements of the engine that leave the money of the site. -/
theorem CreditKept.engineMove {s t : State} (h : CreditKept s) (m : EngineMove s t) : CreditKept t := by
  cases m with
  | reserve _ pricedA pricedB free _ _ funds _ =>
    exact h.openRecord free ⟨pricedA.1, fun l e => (pricedB l e).1, rfl⟩ funds
  | settle slot _ inA inB _ charged carried =>
    obtain ⟨charge, residue⟩ := h.settled_le slot inA inB
    exact h.settle slot (charged.elim (fun e => e ▸ charge) fun e => Nat.le_of_eq e) (carried ▸ residue)
  | cancel slot => exact h.cancelRecord slot
  | refill => exact h.of_pool (by simp [refillMovement]) (by simp [refillMovement]; omega) (by simp [refillMovement]) (by simp [refillMovement])
  | giveBack _ funds =>
    exact h.of_pool (by simp [returnToGateway]) (by simp [returnToGateway]; omega) (by simp [returnToGateway])
      (by simp [returnToGateway])
  | decommission =>
    exact h.of_pool (by simp [returnToGateway]) (by simp [returnToGateway]) (by simp [returnToGateway])
      (by simp [returnToGateway])
  | receiveStamps _ _ _ _ funds =>
    exact h.of_pool (by simp [receiveStamps]) (by simp [receiveStamps]; omega) (by simp [receiveStamps])
      (by simp [receiveStamps])
  | receive =>
    exact h.of_same ⟨by simp, fun x => by rw [receiveEvent_head]; exact ⟨rfl, rfl, rfl⟩, by simp⟩
  | headItems =>
    exact h.of_same ⟨by simp, fun x => by simp only [modHead_heads, Tab.get_modify]; split <;> exact ⟨rfl, rfl, rfl⟩, by simp⟩
  | limits | commission => exact h.of_same ⟨⟨rfl, rfl, rfl, rfl, rfl⟩, fun _ => ⟨rfl, rfl, rfl⟩, fun _ => rfl⟩
  | _ =>
    exact h.of_same ⟨by simp [moveStamps, closeMovement, releaseChannel], by simp [moveStamps, closeMovement, releaseChannel],
      by simp [moveStamps, closeMovement, releaseChannel]⟩

/-- The cold-start records, with any commands waiting, hold no money. -/
theorem creditKept_reset (cs : List Instr) : CreditKept { State.reset with pending := cs } := by
  have head : ∀ h, State.reset.heads.get h = coldHead := fun h => Tab.get_fill ..
  refine ⟨rfl, rfl, fun h => ?_, fun k o ho => ?_, fun h => ?_⟩
  · exact (congrArg HeadRecord.headReserved (head h)).trans (Tab.sum_fill_zero none (reserveOfHead h) rfl).symm
  · exact absurd ((Tab.get_fill none k).symm.trans ho) nofun
  · exact (congrArg HeadRecord.residue (head h)).trans_le (Nat.zero_le _)

theorem CreditKept.move {s t : State} (h : CreditKept s) (m : Move s t) : CreditKept t := by
  cases m with
  | engine m => exact h.engineMove m
  | second =>
    refine h.of_same ⟨by simp, by simp, fun k => ?_⟩
    rw [Tab.get_map]
    cases s.slots.get k <;> rfl
  | hand slot =>
    refine h.of_same ⟨by simp, by simp, fun j => ?_⟩
    rw [setSlot_slots, Tab.get_set]
    split
    · rename_i e; rw [e, slot]; rfl
    · rfl
  | alarm => exact h.of_same ⟨by simp [raiseAlarm], by simp [raiseAlarm], by simp [raiseAlarm]⟩
  | rearm => exact h.of_same ⟨by simp [rearmNearFull], by simp [rearmNearFull], by simp [rearmNearFull]⟩
  | cold => exact creditKept_reset _
  | take | contexts => exact h.of_same ⟨⟨rfl, rfl, rfl, rfl, rfl⟩, fun _ => ⟨rfl, rfl, rfl⟩, fun _ => rfl⟩
  | _ => exact h.of_same ⟨by simp, by simp, by simp⟩

/-- Settles O48: movement by movement, through the sums of the slots. -/
theorem creditConserved : Obligations.CreditConserved := fun _ _ hs step =>
  step_keeps (fun _ _ h => h.of_same ⟨⟨rfl, rfl, rfl, rfl, rfl⟩, fun _ => ⟨rfl, rfl, rfl⟩, fun _ => rfl⟩)
    (fun _ _ m h => h.move m) hs step

end Sys2Proof.Safety
end

section
/-! The service state and the ceiling (R5, R37, R87, R153, R158, R160): the lockdown return state stands with LOCKDOWN, and a
part out of service holds no credit and no record. -/

namespace Sys2Proof.Safety

open Sys2Proof.Machine Sys2Proof.Config

/-! ### The lockdown return state (R158) -/

/-- Outside LOCKDOWN there is no return state. -/
theorem returnStateKept_iff {v : Service} (h : v.state ≠ .lockdown) : ReturnStateKept v ↔ v.returnState = none := by
  unfold ReturnStateKept
  cases v.returnState <;> simp [h]

/-- A locked-down part returns to IN_SERVICE or WITHDRAWN (R161). -/
theorem ReturnStateKept.target {v : Service} (h : ReturnStateKept v) (locked : v.state = .lockdown) :
    v.returnState = some (returnTarget v) ∧ (returnTarget v = .inService ∨ returnTarget v = .withdrawn) := by
  unfold ReturnStateKept at h
  unfold returnTarget
  cases e : v.returnState with
  | none => rw [e] at h; exact absurd locked h
  | some r => rw [e] at h; exact ⟨rfl, h.2⟩

/-- A change of service control that leaves both states. -/
theorem ReturnStateKept.congr {v w : Service} (h : ReturnStateKept v) (state : w.state = v.state)
    (back : w.returnState = v.returnState) : ReturnStateKept w := by
  unfold ReturnStateKept at h ⊢
  rwa [back, state]

/-- The table of R153 keeps the return state with LOCKDOWN. -/
theorem ReturnStateKept.alarmState {v : Service} (h : ReturnStateKept v) (lock : Bool) :
    ReturnStateKept (alarmState lock v) := by
  have none : v.state ≠ .lockdown → v.returnState = none := fun e => (returnStateKept_iff e).1 h
  unfold Machine.alarmState
  cases e : v.state <;> cases lock <;> simp_all [ReturnStateKept, enterLockdown]

/-- The return from HALTED keeps the return state. -/
theorem ReturnStateKept.returnFromHalted {s : State} (h : ReturnStateKept s.service) (p : Port) :
    ReturnStateKept (returnFromHalted p s).service := by
  rcases returnFromHalted_service p s with e | ⟨halted, e⟩
  · rwa [e]
  · have none := (returnStateKept_iff (by simp [halted])).1 h
    rw [e]
    exact (returnStateKept_iff (by simp)).2 none

theorem ReturnStateKept.move {s t : State} (h : ReturnStateKept s.service) (m : Move s t) : ReturnStateKept t.service := by
  cases m with
  | engine m =>
    cases m with
    | commission out =>
      have free : s.service.state ≠ .lockdown := by rcases out with e | e <;> simp [e]
      exact (returnStateKept_iff (by simp)).2 ((returnStateKept_iff free).1 h)
    | unlock locked =>
      have target := (h.target locked).2
      exact (returnStateKept_iff (by simp only [modService_service]; rcases target with e | e <;> simp [e])).2 rfl
    | decommission inService =>
      have none := (returnStateKept_iff (by simp [inService])).1 h
      exact (returnStateKept_iff (by simp)).2 (by simpa [returnToGateway] using none)
    | done => exact ReturnStateKept.returnFromHalted (by simpa using h) _
    | _ =>
      simpa [openRecord, takeClaim, settle, writeClaimed, writeEntry, cancelRecord, releaseClaim, refillMovement,
        returnToGateway, receiveStamps, moveStamps, closeMovement, releaseChannel] using h
  | inputs f kept => exact h.congr (kept _).1 (kept _).2
  | alarm => simpa [raiseAlarm] using h.alarmState _
  | contexts =>
    have e : s.service.state = .halted → s.service.returnState = none := fun e => (returnStateKept_iff (by simp [e])).1 h
    unfold ReturnStateKept at h ⊢
    cases hs : s.service.state <;> simp_all [resetContexts, restartState]
  | cold => exact (returnStateKept_iff (by simp [State.reset, coldService])).2 rfl
  | rearm => simpa [rearmNearFull] using h
  | take => exact h
  | _ => simpa using h

/-! ### The ceiling (R5) -/

/-- A part that is IN_SERVICE or HALTED may hold credit. -/
theorem ReturnStateKept.mayHold {v : Service} (h : ReturnStateKept v) (working : isWorking v.state = true) :
    ¬HoldsNoCredit v := by
  rw [isWorking_iff] at working
  have none := (returnStateKept_iff (by rcases working with e | e <;> simp [e])).1 h
  rcases working with e | e <;> simp [e, none]

/-- A movement after which the part holds no credit only where it held none, with no more in the pool, under a ceiling that
is kept. -/
theorem CeilingKept.of {s t : State} (h : CeilingKept s) (credit : CreditKept t) (returnState : ReturnStateKept t.service)
    (holds : HoldsNoCredit t.service → HoldsNoCredit s.service)
    (total : t.pool.descending + t.pool.reservedTotal ≤ s.pool.descending + s.pool.reservedTotal)
    (free : ∀ k, s.slots.get k = none → t.slots.get k = none) (ceiling : t.pool.ceiling = s.pool.ceiling) : CeilingKept t where
  toCreditKept := credit
  returnState := returnState
  empty := fun e => Nat.le_zero.1 (h.empty (holds e) ▸ total)
  noRecords := fun e k => free k (h.noRecords (holds e) k)
  within := ceiling ▸ total.trans h.within

/-- A movement that leaves service control. -/
theorem CeilingKept.of_service {s t : State} (h : CeilingKept s) (credit : CreditKept t) (service : t.service = s.service)
    (total : t.pool.descending + t.pool.reservedTotal ≤ s.pool.descending + s.pool.reservedTotal)
    (free : ∀ k, s.slots.get k = none → t.slots.get k = none) (ceiling : t.pool.ceiling = s.pool.ceiling) : CeilingKept t :=
  h.of credit (service ▸ h.returnState) (fun e => service ▸ e) total free ceiling

/-- A movement of a working part stays under the ceiling. -/
theorem CeilingKept.of_working {s t : State} (h : CeilingKept s) (working : isWorking s.service.state = true)
    (credit : CreditKept t) (service : t.service = s.service)
    (within : t.pool.descending + t.pool.reservedTotal ≤ t.pool.ceiling) : CeilingKept t where
  toCreditKept := credit
  returnState := service ▸ h.returnState
  empty := fun e => absurd (service ▸ e) (h.returnState.mayHold working)
  noRecords := fun e => absurd (service ▸ e) (h.returnState.mayHold working)
  within := within

theorem isWorking_of_inService {v : ServiceState} (h : v = .inService) : isWorking v = true := by rw [h]; rfl

/-- With no slot OPEN the reserved total is 0. -/
theorem CreditKept.reserved_zero {s : State} (h : CreditKept s) (free : ∀ k, s.slots.get k = none) :
    s.pool.reservedTotal = 0 := by
  rw [h.reserved, Tab.sum_congr (u := Tab.fill 16 none) fun k => by rw [free, Tab.get_fill]]
  exact Tab.sum_fill_zero _ _ rfl

/-- No slot is OPEN when the count of them is 0 (R37). -/
theorem free_of_openCount {s : State} (h : openCount s = 0) (k : SlotNo) : s.slots.get k = none := by
  rw [openCount, Tab.count_eq_sum] at h
  have e := s.slots.le_sum (fun x => x.isSome.toNat) k
  rw [h] at e
  cases hk : s.slots.get k with
  | none => rfl
  | some o => rw [hk] at e; exact absurd e (Nat.not_succ_le_zero 0)

/-- The table of R153 takes no part that may hold credit out of service. -/
theorem holdsNoCredit_alarmState (lock : Bool) (v : Service) : HoldsNoCredit (alarmState lock v) → HoldsNoCredit v := by
  unfold alarmState HoldsNoCredit
  cases e : v.state <;> cases lock <;> simp_all [enterLockdown]

theorem CeilingKept.engineMove {s t : State} (h : CeilingKept s) (m : EngineMove s t) : CeilingKept t := by
  have credit := h.toCreditKept.engineMove m
  have back := h.returnState.move (.engine m)
  have within := h.within
  cases m with
  | limits working ceiling =>
    refine h.of_working working credit rfl ?_
    rename_i c _ _ _ _
    cases c with
    | value v => exact (ceiling v rfl).2.2
    | leave | unrecognised => exact within
  | commission out =>
    refine ⟨credit, back, fun e => ?_, fun e => ?_, ?_⟩
    · exact absurd e (back.mayHold rfl)
    · exact absurd e (back.mayHold rfl)
    · exact (h.empty (out.elim .inl fun e => .inr (.inl e))).trans_le (Nat.zero_le _)
  | unlock locked =>
    refine h.of credit back (fun e => ?_) (Nat.le_refl _) (fun _ => id) rfl
    obtain ⟨target, cases⟩ := h.returnState.target locked
    rcases cases with r | r <;> rw [r] at target
    · simp [HoldsNoCredit, r] at e
    · exact .inr (.inr target)
  | reserve inService _ _ free _ _ funds =>
    refine h.of_working (isWorking_of_inService inService) credit (by simp [openRecord, takeClaim]) ?_
    simp only [openRecord, takeClaim, evaluateNearFull_pool, modAudit_pool, setSlot_pool, modHead_pool, modPool_pool]
    simp only [newRecord]
    omega
  | settle slot _ inA inB _ charged =>
    obtain ⟨inTotal, -⟩ := h.total_le slot
    refine h.of_service credit rfl ?_ (fun j hj => ?_) rfl
    · rw [settle_eq]; simp only; omega
    · rw [settle_eq, Tab.get_set]; split <;> [rfl; exact hj]
  | cancel slot =>
    obtain ⟨inTotal, -⟩ := h.total_le slot
    refine h.of_service credit (by simp [cancelRecord, releaseClaim]) ?_ (fun j hj => ?_)
      (by simp [cancelRecord, releaseClaim])
    · simp [cancelRecord, releaseClaim]; omega
    · simp only [cancelRecord, releaseClaim, evaluateNearFull_slots, modAudit_slots, setSlot_slots, Tab.get_set]
      split <;> [rfl; exact hj]
  | refill inService _ _ ceiling =>
    refine h.of_working (isWorking_of_inService inService) credit (by simp [refillMovement]) ?_
    simp [refillMovement]; omega
  | giveBack =>
    refine h.of_service credit (by simp [returnToGateway]) ?_ (by simp [returnToGateway]) (by simp [returnToGateway])
    simp [returnToGateway]
  | decommission inService closed =>
    have free := free_of_openCount closed
    have none := (returnStateKept_iff (by simp [inService])).1 h.returnState
    have reserved := h.reserved_zero free
    have empty : (returnToGateway s.pool.descending s).pool.descending +
        (returnToGateway s.pool.descending s).pool.reservedTotal = 0 := by simp [returnToGateway, reserved]
    exact ⟨credit, back, fun _ => empty, fun _ k => by simpa [returnToGateway] using free k,
      empty.trans_le (Nat.zero_le _)⟩
  | receiveStamps =>
    refine h.of_service credit (by simp [receiveStamps]) ?_ (by simp [receiveStamps]) (by simp [receiveStamps])
    simp [receiveStamps]
  | @done p l rest =>
    refine h.of credit back (fun e => ?_) (by simp) (by simp) (by simp)
    rcases returnFromHalted_service p (modNoticePort p (fun x => { x with stack := rest }) s) with r | ⟨halted, r⟩
    · rwa [r] at e
    · have none := (returnStateKept_iff (v := s.service) (by simp_all)).1 h.returnState
      rw [r] at e
      simp [HoldsNoCredit, none] at e
  | _ =>
    exact h.of_service credit (by simp [moveStamps, closeMovement, releaseChannel])
      (by simp [moveStamps, closeMovement, releaseChannel]) (by simp [moveStamps, closeMovement, releaseChannel])
      (by simp [moveStamps, closeMovement, releaseChannel])

theorem CeilingKept.move {s t : State} (h : CeilingKept s) (m : Move s t) : CeilingKept t := by
  have credit := h.toCreditKept.move m
  have back := h.returnState.move m
  cases m with
  | engine m => exact h.engineMove m
  | inputs f kept =>
    exact h.of credit back (by simp [HoldsNoCredit, (kept s.service).1, (kept s.service).2]) (Nat.le_refl _) (fun _ => id) rfl
  | alarm =>
    exact h.of credit back (by simpa [raiseAlarm] using holdsNoCredit_alarmState _ _) (by simp [raiseAlarm])
      (by simp [raiseAlarm]) (by simp [raiseAlarm])
  | second => exact h.of_service credit rfl (Nat.le_refl _) (fun k hk => by rw [Tab.get_map, hk]; rfl) rfl
  | hand slot =>
    refine h.of_service credit rfl (Nat.le_refl _) (fun j hj => ?_) rfl
    rw [setSlot_slots, Tab.get_set_ne _ _ fun e => by rw [e, slot] at hj; cases hj]
    exact hj
  | contexts =>
    refine h.of credit back (fun e => ?_) (Nat.le_refl _) (fun _ => id) rfl
    cases hs : s.service.state <;> simp_all [HoldsNoCredit, resetContexts, restartState]
  | rearm =>
    exact h.of_service credit (by simp [rearmNearFull]) (by simp [rearmNearFull]) (by simp [rearmNearFull])
      (by simp [rearmNearFull])
  | cold => exact ⟨credit, back, fun _ => rfl, fun _ k => Tab.get_fill .., Nat.le_refl _⟩
  | take => exact h.of_service credit rfl (Nat.le_refl _) (fun _ => id) rfl
  | _ => exact h.of_service credit (by simp) (by simp) (by simp) (by simp)

theorem CeilingKept.queue {s : State} (h : CeilingKept s) (cs : List Instr) : CeilingKept { s with pending := cs } :=
  ⟨⟨h.balance, h.reserved, h.headReserved, h.priced, h.residues⟩, h.returnState, h.empty, h.noRecords, h.within⟩

/-- Settles O49: with the credit kept, each movement stays under the ceiling or under its own check of it, and the states
out of service are entered with an empty pool alone. -/
theorem ceilingHeld : Obligations.CeilingHeld := fun _ _ hs step =>
  step_keeps (fun _ cs h => h.queue cs) (fun _ _ m h => h.move m) hs step

end Sys2Proof.Safety
end

section
/-! The ranges of the open records, the pool and the heads (R1, R13, R14, R38), and the day's figures of the heads (R114). -/

namespace Sys2Proof.Safety

open Sys2Proof.Machine Sys2Proof.Config

/-! ### The open records (R38) -/

/-- The ranges of an open record: the pieces of its lanes and its hold remaining. -/
structure RecordInRange (o : OpenImprint) : Prop where
  lanes : o.laneA.pieces ≤ 9999 ∧ ∀ l, o.laneB = some l → l.pieces ≤ 9999
  hold : o.holdRemaining ≤ 600

/-- Every open record keeps its ranges. -/
def RecordsInRange (s : State) : Prop := ∀ k o, s.slots.get k = some o → RecordInRange o

theorem RecordsInRange.set {s t : State} (h : RecordsInRange s) {k : SlotNo} {x : Option OpenImprint}
    (e : t.slots = s.slots.set k x) (hx : ∀ o, x = some o → RecordInRange o) : RecordsInRange t := by
  intro j o ho
  rw [e, Tab.get_set] at ho
  split at ho
  · exact hx o ho
  · exact h j o ho

theorem RecordsInRange.same {s t : State} (h : RecordsInRange s) (e : t.slots = s.slots) : RecordsInRange t := by
  unfold RecordsInRange
  rw [e]
  exact h

theorem RecordsInRange.move {s t : State} (h : RecordsInRange s) (holds : ∀ x, (s.heads.get x).holdTime ≤ 600)
    (m : Move s t) : RecordsInRange t := by
  cases m with
  | engine m =>
    cases m with
    | reserve _ pricedA pricedB =>
      refine h.set (by simp [openRecord, takeClaim]; rfl) fun o e => ?_
      cases e
      exact ⟨⟨pricedA.2, fun l e => (pricedB l e).2⟩, holds _⟩
    | settle => exact h.set (x := none) rfl nofun
    | cancel => exact h.set (x := none) (by simp [cancelRecord, releaseClaim]; rfl) nofun
    | _ =>
      exact h.same (by simp [refillMovement, returnToGateway, receiveStamps, moveStamps, closeMovement, releaseChannel])
  | second =>
    intro k o ho
    rw [Tab.get_map] at ho
    cases hs : s.slots.get k with
    | none => rw [hs] at ho; cases ho
    | some o' =>
      rw [hs] at ho
      cases ho
      obtain ⟨lanes, hold⟩ := h k o' hs
      exact ⟨lanes, (Nat.sub_le _ _).trans hold⟩
  | hand slot =>
    refine h.set rfl fun o e => ?_
    cases e
    obtain ⟨lanes, hold⟩ := h _ _ slot
    exact ⟨lanes, hold⟩
  | cold => exact fun k o ho => absurd ((Tab.get_fill none k).symm.trans ho) nofun
  | _ => exact h.same (by simp [raiseAlarm, rearmNearFull, resetContexts, takeSource])

/-! ### The pool (R1) -/

/-- The ranges of the pool that do not follow from the ceiling and the balance. -/
structure PoolLimits (v : ServiceState) (p : Pool) : Prop where
  blank : v = .blank → p.ceiling = 0 ∧ p.licence = 0 ∧ p.day = 0
  present : v ≠ .blank → 1 ≤ p.ceiling ∧ 1 ≤ p.licence ∧ 1 ≤ p.day
  fundedTotal : p.fundedTotal ≤ 999999999999999
  ceiling : p.ceiling ≤ 9999999999
  threshold : p.threshold ≤ 9999999999
  floor : ∀ f, p.floor = some f → f ≤ 9999999999
  licence : p.licence ≤ 99999999
  day : p.day ≤ 4294967295
  lastVoucher : p.lastVoucher ≤ 4294967295

theorem PoolInRange.limits {v : ServiceState} {p : Pool} (h : PoolInRange v p) : PoolLimits v p :=
  ⟨h.blank, h.present, h.fundedTotal, h.ceiling, h.threshold, h.floor, h.licence, h.day, h.lastVoucher⟩

/-- Under the ceiling and in balance the rest of the pool is in range too. -/
theorem PoolLimits.inRange {s : State} (h : PoolLimits s.service.state s.pool) (c : CeilingKept s) :
    PoolInRange s.service.state s.pool := by
  have ceiling := c.within.trans h.ceiling
  have balance := c.balance
  have funded := h.fundedTotal
  exact ⟨h.blank, h.present, by omega, by omega, funded, by omega, by omega, h.ceiling, h.threshold, h.floor, h.licence,
    h.day, h.lastVoucher⟩

/-- The fields of the pool whose ranges `PoolLimits` states. -/
def limitFields (p : Pool) : Nat × Nat × Nat × Option Nat × Nat × Nat × Nat :=
  (p.fundedTotal, p.ceiling, p.threshold, p.floor, p.licence, p.day, p.lastVoucher)

theorem PoolLimits.same {v w : ServiceState} {p p' : Pool} (h : PoolLimits v p) (state : w = .blank ↔ v = .blank)
    (e : limitFields p' = limitFields p) : PoolLimits w p' := by
  simp only [limitFields, Prod.mk.injEq] at e
  obtain ⟨e1, e2, e3, e4, e5, e6, e7⟩ := e
  refine ⟨fun x => ?_, fun x => ?_, e1 ▸ h.fundedTotal, e2 ▸ h.ceiling, e3 ▸ h.threshold, e4 ▸ h.floor, e5 ▸ h.licence,
    e6 ▸ h.day, e7 ▸ h.lastVoucher⟩
  · rw [e2, e5, e6]; exact h.blank (state.1 x)
  · rw [e2, e5, e6]; exact h.present fun y => x (state.2 y)

theorem ne_blank_of_working {v : ServiceState} (h : isWorking v = true) : v ≠ .blank := by
  rintro rfl; cases h

theorem alarmState_blank (lock : Bool) (v : Service) : (alarmState lock v).state = .blank ↔ v.state = .blank := by
  unfold alarmState
  cases e : v.state <;> cases lock <;> simp [enterLockdown, e]

theorem restartState_blank (v : ServiceState) : restartState v = .blank ↔ v = .blank := by
  cases v <;> simp [restartState]

theorem PoolLimits.setLimits {v : ServiceState} {p : Pool} (h : PoolLimits v p) (present : v ≠ .blank) {c t f : Choice Nat}
    (ceiling : ∀ x, c = .value x → 1 ≤ x ∧ x ≤ 9999999999) (threshold : ∀ x, t = .value x → x ≤ 9999999999)
    (floor : ∀ x, f = .value x → x ≤ 9999999999) : PoolLimits v (setLimits c t f p) := by
  obtain ⟨hc, hl, hd⟩ := h.present present
  have hceiling : 1 ≤ choiceOr p.ceiling c ∧ choiceOr p.ceiling c ≤ 9999999999 := by
    cases c with
    | value x => exact ceiling x rfl
    | leave | unrecognised => exact ⟨hc, h.ceiling⟩
  have hthreshold : choiceOr p.threshold t ≤ 9999999999 := by
    cases t with
    | value x => exact threshold x rfl
    | leave | unrecognised => exact h.threshold
  refine ⟨fun e => absurd e present, fun _ => ⟨hceiling.1, hl, hd⟩, h.fundedTotal, hceiling.2, hthreshold, ?_, h.licence,
    h.day, h.lastVoucher⟩
  cases f with
  | value x => rintro _ ⟨⟩; exact floor x rfl
  | leave | unrecognised => exact h.floor

theorem PoolLimits.engineMove {s t : State} (h : PoolLimits s.service.state s.pool) (back : ReturnStateKept s.service)
    (m : EngineMove s t) : PoolLimits t.service.state t.pool := by
  cases m with
  | limits working ceiling threshold floor =>
    exact h.setLimits (ne_blank_of_working working) (fun v e => ⟨(ceiling v e).1, (ceiling v e).2.1⟩) threshold floor
  | commission out licences ceilings thresholds =>
    refine ⟨fun e => (by cases e), fun _ => ⟨ceilings.1, licences.1, ?_⟩, h.fundedTotal, ceilings.2, thresholds, h.floor,
      licences.2, ?_, h.lastVoucher⟩
    · simp only [modService_pool, modPool_pool, commissionPool, decide_eq_true_eq]
      split
      · exact Nat.le_refl 1
      · rename_i present; exact (h.present present).2.2
    · simp only [modService_pool, modPool_pool, commissionPool, decide_eq_true_eq]
      split
      · decide
      · exact h.day
  | unlock locked =>
    refine h.same ?_ rfl
    rcases (back.target locked).2 with e | e <;> simp [e, locked]
  | refill inService _ serials _ funded =>
    obtain ⟨b, p, f, c, t, fl, l, d, v⟩ := h
    have present : s.service.state ≠ .blank := by simp [inService]
    constructor <;> simp_all [refillMovement]
  | close working notLast =>
    obtain ⟨b, p, f, c, t, fl, l, d, v⟩ := h
    have present := ne_blank_of_working working
    constructor <;> simp_all [closeMovement]
    omega
  | decommission inService =>
    exact h.same (by simp [inService]) (by simp [returnToGateway, limitFields])
  | @done p l rest =>
    refine h.same ?_ (by simp)
    rcases returnFromHalted_service p (modNoticePort p (fun x => { x with stack := rest }) s) with r | ⟨halted, r⟩
    · rw [r]; rfl
    · rw [r]; simp_all
  | _ =>
    exact h.same (by simp [openRecord, takeClaim, settle, writeClaimed, writeEntry, cancelRecord, releaseClaim,
        returnToGateway, receiveStamps, moveStamps, releaseChannel])
      (by simp [openRecord, takeClaim, settle, writeClaimed, writeEntry, cancelRecord, releaseClaim,
        returnToGateway, receiveStamps, moveStamps, releaseChannel, limitFields])

/-- The limits of the pool of a BLANK part. -/
theorem poolLimits_cold : PoolLimits .blank coldPool := by
  constructor <;> simp [coldPool]

theorem PoolLimits.move {s t : State} (h : PoolLimits s.service.state s.pool) (back : ReturnStateKept s.service)
    (m : Move s t) : PoolLimits t.service.state t.pool := by
  cases m with
  | engine m => exact h.engineMove back m
  | inputs f kept => exact h.same (by simp [(kept _).1]) rfl
  | alarm => exact h.same (by simpa [raiseAlarm] using alarmState_blank _ _) (by simp [raiseAlarm])
  | contexts => exact h.same (restartState_blank _) rfl
  | cold => exact poolLimits_cold
  | _ => exact h.same (by simp [rearmNearFull, takeSource]) (by simp [rearmNearFull, takeSource, limitFields])

/-! ### The heads (R13, R14) -/

/-- The holders set does not matter to a head's ranges. -/
theorem HeadInRange.of_holders {r r' : HeadRecord} (h : HeadInRange r) (e : r' = { r with inhibitHolders := r'.inhibitHolders }) :
    HeadInRange r' := by
  rw [e]
  exact ⟨h.money, h.usedToday, h.wrapCount, h.dailyCap, h.holdTime, h.imprintNumber, h.ring, h.pieces⟩

theorem HeadInRange.setHeadItems {r : HeadRecord} (h : HeadInRange r) {enabled : Choice Bool} {hold : Choice Nat}
    {cap : CapChoice} (inRange : ∀ v, cap = .value v → 1 ≤ v ∧ v ≤ 9999999999) :
    HeadInRange (setHeadItems enabled hold cap r) := by
  refine ⟨h.money, h.usedToday, h.wrapCount, fun c e => ?_, ?_, h.imprintNumber, h.ring, h.pieces⟩
  · cases cap with
    | value v => cases e; exact inRange _ rfl
    | absent => cases e
    | leave | unrecognised => exact h.dailyCap c e
  · cases hold with
    | value t => simp only [Machine.setHeadItems, clampHold]; omega
    | leave | unrecognised => exact h.holdTime

theorem HeadInRange.opened {r : HeadRecord} (h : HeadInRange r) {total : Nat}
    (ascLimit : r.ascending + r.headReserved + total ≤ 99999999999) :
    HeadInRange { r with headReserved := r.headReserved + total, imprintNumber := imprintAfter r.imprintNumber } := by
  refine ⟨by simp only; omega, h.usedToday, h.wrapCount, h.dailyCap, h.holdTime, ?_, h.ring, h.pieces⟩
  have range := h.imprintNumber
  simp only [imprintAfter]
  split <;> omega

theorem HeadInRange.cancelled {r : HeadRecord} (h : HeadInRange r) (total tag : Nat) :
    HeadInRange { r with headReserved := r.headReserved - total, ring := pushRing tag .cancelled r.ring } := by
  have money := h.money
  exact ⟨by simp only; omega, h.usedToday, h.wrapCount, h.dailyCap, h.holdTime, h.imprintNumber, List.length_take_le _ _, h.pieces⟩

theorem HeadInRange.settled {r : HeadRecord} (h : HeadInRange r) {tag : Nat} {kind : ClosureKind}
    {total charge pieces residue : Nat} (within : charge ≤ total) (reserved : total ≤ r.headReserved)
    (few : pieces ≤ 19998) : HeadInRange (settledHead tag kind total charge pieces residue r) := by
  have money := h.money
  have used := h.usedToday
  have wraps := h.wrapCount
  have counter := h.pieces
  rw [settledHead_eq]
  refine ⟨?_, ?_, ?_, h.dailyCap, h.holdTime, h.imprintNumber, List.length_take_le _ _, ?_⟩
  · simp only; omega
  · simp only; omega
  · simp only; split <;> omega
  · simp only; split <;> omega

/-- Every head keeps its ranges. -/
def HeadsInRange (s : State) : Prop := ∀ h, HeadInRange (s.heads.get h)

theorem HeadsInRange.same {s t : State} (h : HeadsInRange s) (e : t.heads = s.heads) : HeadsInRange t := by
  unfold HeadsInRange
  rw [e]
  exact h

theorem HeadsInRange.modify {s t : State} (h : HeadsInRange s) {x : Head} {f : HeadRecord → HeadRecord}
    (e : t.heads = s.heads.modify x f) (hx : HeadInRange (f (s.heads.get x))) : HeadsInRange t := by
  intro y
  rw [e, Tab.get_modify]
  split
  · rename_i hy; rw [hy]; exact hx
  · exact h y

/-- The pieces of a settlement are those of at most two lanes. -/
theorem settled_pieces_le {o : OpenImprint} (h : RecordInRange o) {pa pb : Nat} (inA : pa ≤ o.laneA.pieces)
    (inB : pb ≤ (o.laneB.map Lane.pieces).getD 0) : pa + pb ≤ 19998 := by
  have limit : (o.laneB.map Lane.pieces).getD 0 ≤ 9999 := by
    cases e : o.laneB with
    | none => exact Nat.zero_le _
    | some l => exact h.lanes.2 l e
  have limitA := h.lanes.1
  omega

theorem HeadsInRange.move {s t : State} (h : HeadsInRange s) (credit : CreditKept s) (records : RecordsInRange s)
    (m : Move s t) : HeadsInRange t := by
  cases m with
  | engine m =>
    cases m with
    | receive => exact fun x => (h x).of_holders (receiveEvent_head ..)
    | headItems _ inRange => exact h.modify rfl ((h _).setHeadItems inRange)
    | reserve _ _ _ _ _ _ _ ascLimit =>
      exact h.modify (by simp [openRecord, takeClaim]; rfl) ((h _).opened ascLimit)
    | settle slot _ inA inB counted charged =>
      have within := (credit.settled_le slot inA inB).1
      exact h.modify rfl ((h _).settled (charged.elim (fun e => e ▸ within) Nat.le_of_eq) (credit.total_le slot).2
        (counted ▸ settled_pieces_le (records _ _ slot) inA inB))
    | cancel => exact h.modify (by simp [cancelRecord, releaseClaim]; rfl) ((h _).cancelled _ _)
    | close =>
      intro x
      obtain ⟨money, _, wraps, cap, hold, imprint, ring, pieces⟩ := h x
      simp only [closeMovement, modAudit_heads, writeFree_heads, Tab.get_map]
      exact ⟨money, Nat.zero_le _, wraps, cap, hold, imprint, ring, pieces⟩
    | release =>
      intro x
      simp only [releaseChannel, Tab.get_map]
      exact (h x).of_holders rfl
    | _ => exact h.same (by simp [refillMovement, returnToGateway, receiveStamps, moveStamps])
  | cold =>
    intro x
    have e : State.reset.heads.get x = coldHead := Tab.get_fill ..
    simp only [e]
    constructor <;> simp [coldHead]
  | _ => exact h.same (by simp [raiseAlarm, rearmNearFull, resetContexts, takeSource])

/-! ### The day's figures (R114) -/

/-- Each head's value settled is its used today. -/
def ValuesSettled (s : State) : Prop :=
  ∀ h, (s.audit.accumulators.heads.get h).valueSettled = (s.heads.get h).usedToday

theorem ValuesSettled.same {s t : State} (h : ValuesSettled s) (values : t.audit.accumulators.heads = s.audit.accumulators.heads)
    (used : ∀ x, (t.heads.get x).usedToday = (s.heads.get x).usedToday) : ValuesSettled t := by
  intro x
  rw [values, used]
  exact h x

/-- A settlement's entry adds its amount to the head's value settled (R114). -/
theorem accumulate_settled {entry : EntryKind} (kinds : entry = .commit ∨ entry = .expiryCharge ∨ entry = .restartCharge)
    {i : EntryItems} {x : Head} (head : i.head = some x) (a : Accumulators) (y : Head) :
    ((accumulate entry i a).heads.get y).valueSettled =
      if y = x then (a.heads.get y).valueSettled + i.amount else (a.heads.get y).valueSettled := by
  rcases kinds with rfl | rfl | rfl <;> simp only [accumulate, head, Tab.get_modify] <;> split <;> rfl

theorem ValuesSettled.move {s t : State} (h : ValuesSettled s) (m : Move s t) : ValuesSettled t := by
  cases m with
  | engine m =>
    cases m with
    | receive => exact h.same (by simp) fun x => by rw [receiveEvent_head]
    | settle _ kinds =>
      intro x
      rw [settle_eq]
      simp only
      rw [accumulate_settled kinds rfl, Tab.get_modify, settledHead_eq, h x]
      split <;> rfl
    | close => intro x; simp [closeMovement, emptyAccumulators]
    | headItems | reserve | cancel =>
      refine h.same (by simp [openRecord, takeClaim, cancelRecord, releaseClaim]) fun x => ?_
      simp only [openRecord, takeClaim, cancelRecord, releaseClaim, evaluateNearFull_heads, modAudit_heads, setSlot_heads,
        modHead_heads, modPool_heads, Tab.get_modify]
      split <;> rfl
    | moveStamps => exact h.same (by simp only [moveStamps]; split <;> simp [accumulate, plainItems]) (by simp [moveStamps])
    | _ =>
      exact h.same (by simp [refillMovement, returnToGateway, receiveStamps, releaseChannel, accumulate, plainItems])
        (by simp [refillMovement, returnToGateway, receiveStamps, releaseChannel])
  | cold => intro x; simp [State.reset, coldAudit, emptyAccumulators, coldHead]
  | _ =>
    exact h.same (by simp [raiseAlarm, rearmNearFull, resetContexts, takeSource])
      (by simp [raiseAlarm, rearmNearFull, resetContexts, takeSource])

/-! ### The ranges together -/

theorem RangesKept.records {s : State} (h : RangesKept s) : RecordsInRange s := fun k o ho => ⟨h.lanes k o ho, h.holds k o ho⟩

/-- The ranges, from those of the records, the pool and the heads. -/
theorem RangesKept.of {s : State} (ceiling : CeilingKept s) (records : RecordsInRange s)
    (limits : PoolLimits s.service.state s.pool) (heads : HeadsInRange s) (values : ValuesSettled s) : RangesKept s where
  toCeilingKept := ceiling
  lanes := fun k o ho => (records k o ho).lanes
  holds := fun k o ho => (records k o ho).hold
  poolRange := limits.inRange ceiling
  headRange := heads
  valueSettled := values

theorem RangesKept.move {s t : State} (h : RangesKept s) (m : Move s t) : RangesKept t :=
  .of (h.toCeilingKept.move m) (h.records.move (fun x => (h.headRange x).holdTime.2) m)
    (h.poolRange.limits.move h.returnState m)
    (HeadsInRange.move h.headRange h.toCreditKept h.records m) (ValuesSettled.move h.valueSettled m)

/-- Settles O50: the records, the pool, the heads and the day's figures, each movement by movement. -/
theorem rangesHeld : Obligations.RangesHeld := fun _ _ hs step =>
  step_keeps (fun _ cs h => ⟨h.toCeilingKept.queue cs, h.lanes, h.holds, h.poolRange, h.headRange, h.valueSettled⟩)
    (fun _ _ m h => h.move m) hs step

end Sys2Proof.Safety
end

section
/-! The audit store, the open imprint table and the stock table (R10, R38, R39, R81, R89, R90, R104, R107, R108): what every
movement makes of their numbering, their counts and their ranges. -/

namespace Sys2Proof.Safety

open Sys2Proof.Machine Sys2Proof.Config

/-! ### The counts of the open records (R37, R39) -/

/-- Placing a record in a FREE slot adds one to the count of OPEN slots, and to that of its head. -/
theorem openCount_open {s t : State} {k : SlotNo} {o : OpenImprint} (free : s.slots.get k = none)
    (e : t.slots = s.slots.set k (some o)) : openCount t = openCount s + 1 := by
  have c := s.slots.count_set k (some o) Option.isSome
  rw [free] at c
  simpa [openCount, e] using c

theorem openCount_close {s t : State} {k : SlotNo} {o : OpenImprint} (slot : s.slots.get k = some o)
    (e : t.slots = s.slots.set k none) : openCount t + 1 = openCount s := by
  have c := s.slots.count_set k none Option.isSome
  rw [slot] at c
  simpa [openCount, e] using c

/-- A change of the slots that leaves which are OPEN. -/
theorem openCount_congr {s t : State} (e : ∀ k, (t.slots.get k).isSome = (s.slots.get k).isSome) : openCount t = openCount s := by
  unfold openCount
  rw [Tab.count_eq_sum, Tab.count_eq_sum]
  exact Tab.sum_congr fun k => by rw [e]

/-! ### The journal (R104, R107, R108) -/

/-- The entries of a journal number on from the movement sequence less their count (R107). -/
def Numbered (next : Nat) (journal : List JournalEntry) : Prop :=
  ∀ i e, journal[i]? = some e → e.sequence = ((next + 4294967296 - journal.length) % 4294967296 + i) % 4294967296

/-- A new entry takes the movement sequence. -/
theorem Numbered.append {next : Nat} {journal : List JournalEntry} (h : Numbered next journal) {e : JournalEntry}
    (room : journal.length < 512) (bound : next < 4294967296) (number : e.sequence = next) :
    Numbered ((next + 1) % 4294967296) (journal ++ [e]) := by
  intro i x hx
  rw [List.getElem?_append] at hx
  simp only [List.length_append, List.length_cons, List.length_nil]
  split at hx
  · rw [h i x hx]; omega
  · obtain ⟨hi, rfl⟩ : i - journal.length = 0 ∧ e = x := by
      cases d : i - journal.length with
      | zero => rw [d] at hx; exact ⟨rfl, by simpa using hx⟩
      | succ n => rw [d] at hx; cases hx
    rw [number]
    omega

/-- Entries leave at the oldest end. -/
theorem Numbered.drop {next : Nat} {journal : List JournalEntry} (h : Numbered next journal) {n : Nat}
    (held : n ≤ journal.length) (room : journal.length ≤ 512) : Numbered next (journal.drop n) := by
  intro i x hx
  rw [List.getElem?_drop] at hx
  have inside : n + i < journal.length := (List.getElem?_eq_some_iff.1 hx).1
  rw [h _ x hx, List.length_drop]
  omega

theorem JournalKept.numbered {s : State} (h : JournalKept s) : Numbered s.pool.movementSequence s.audit.journal := h.sequence

/-- A movement that writes no entry and leaves the claims with the open records. -/
theorem JournalKept.same {s t : State} (h : JournalKept s) (journal : t.audit.journal = s.audit.journal)
    (next : t.pool.movementSequence = s.pool.movementSequence) (claimed : t.audit.claimed = openCount t)
    (room : s.audit.journal.length + t.audit.claimed ≤ 512) : JournalKept t := by
  refine ⟨claimed, by rw [unacknowledged, journal]; exact room, next ▸ h.next, fun i e he => ?_⟩
  have n := h.numbered i e (journal ▸ he)
  simp only [oldestSequence, unacknowledged, journal, next]
  exact n

/-- A movement that writes one entry. -/
theorem JournalKept.written {s t : State} (h : JournalKept s) {e : JournalEntry}
    (journal : t.audit.journal = s.audit.journal ++ [e]) (number : e.sequence = s.pool.movementSequence)
    (next : t.pool.movementSequence = (s.pool.movementSequence + 1) % 4294967296) (claimed : t.audit.claimed = openCount t)
    (room : s.audit.journal.length + 1 + t.audit.claimed ≤ 512) : JournalKept t := by
  have numbered := h.numbered.append (by omega) h.next number
  refine ⟨claimed, ?_, ?_, fun i x hx => ?_⟩
  · rw [unacknowledged, journal, List.length_append]; exact room
  · rw [next]; exact Nat.mod_lt _ (by decide)
  · have n := numbered i x (journal ▸ hx)
    simp only [oldestSequence, unacknowledged, next, journal]
    exact n

/-- An entry written without a claim, where an entry is free (R108, R109). -/
theorem JournalKept.writeFree {s t : State} (h : JournalKept s) (room : journalFree s ≠ 0) {e : JournalEntry}
    (journal : t.audit.journal = s.audit.journal ++ [e])
    (number : e.sequence = s.pool.movementSequence)
    (next : t.pool.movementSequence = (s.pool.movementSequence + 1) % 4294967296)
    (claimed : t.audit.claimed = s.audit.claimed) (slots : t.slots = s.slots) : JournalKept t := by
  refine h.written journal number next (by rw [claimed, h.claimed, openCount, openCount, slots]) ?_
  simp only [journalFree, unacknowledged, journalCapacity] at room
  omega

theorem JournalKept.engineMove {s t : State} (h : JournalKept s) (m : EngineMove s t) : JournalKept t := by
  have room := h.room
  have claimed := h.claimed
  simp only [unacknowledged] at room
  cases m with
  | @reserve hd a b k _ _ _ _ free _ journalRoom =>
    have count := openCount_open (o := newRecord hd a b s) (t := openRecord k (newRecord hd a b s) s) free
      (by simp [openRecord, takeClaim])
    simp only [journalFree, unacknowledged, journalCapacity] at journalRoom
    refine h.same (by simp [openRecord, takeClaim]) (by simp [openRecord, takeClaim]) ?_ ?_
    · rw [count, ← claimed]; simp [openRecord, takeClaim]
    · simp only [openRecord, takeClaim, evaluateNearFull_claimed, modAudit_audit, setSlot_audit, modHead_audit, modPool_audit]
      omega
  | @settle k o kind entry charge pieces residue pa pb _ slot =>
    have count := openCount_close (t := Machine.settle k o kind entry charge pieces residue s) slot rfl
    exact h.written (t := Machine.settle k o kind entry charge pieces residue s) rfl rfl rfl
      (by simp only [settle_eq] at count ⊢; omega) (by simp only [settle_eq]; omega)
  | @cancel k o _ slot =>
    have count := openCount_close (t := cancelRecord k o s) slot (by simp [cancelRecord, releaseClaim])
    have after : (cancelRecord k o s).audit.claimed = s.audit.claimed - 1 := by simp [cancelRecord, releaseClaim]
    exact h.same (by simp [cancelRecord, releaseClaim]) (by simp [cancelRecord, releaseClaim]) (by omega) (by omega)
  | refill _ _ _ _ _ journalRoom =>
    exact h.writeFree journalRoom (by simp [refillMovement]; rfl) (by rfl) (by simp [refillMovement]) (by simp [refillMovement])
      (by simp [refillMovement])
  | giveBack _ _ journalRoom | decommission _ _ journalRoom =>
    exact h.writeFree journalRoom (by simp [returnToGateway]; rfl) (by rfl) (by simp [returnToGateway]) (by simp [returnToGateway])
      (by simp [returnToGateway])
  | receiveStamps _ _ _ journalRoom | moveStamps _ _ _ journalRoom =>
    exact h.writeFree journalRoom (by simp [receiveStamps, moveStamps]; rfl) (by rfl) (by simp [receiveStamps, moveStamps])
      (by simp [receiveStamps, moveStamps]) (by simp [receiveStamps, moveStamps])
  | close _ _ journalRoom =>
    exact h.writeFree journalRoom (by simp [closeMovement]; rfl) (by rfl) (by simp [closeMovement]) (by simp [closeMovement])
      (by simp [closeMovement])
  | acknowledge held =>
    have numbered := h.numbered.drop held (by omega)
    refine ⟨?_, ?_, ?_, fun i e he => ?_⟩
    · simpa [openCount] using claimed
    · simp [unacknowledged]; omega
    · simpa using h.next
    · rw [acknowledge_journal] at he
      have n := numbered i e he
      simp only [oldestSequence, unacknowledged, acknowledge_pool, acknowledge_journal]
      exact n
  | _ =>
    exact h.same (by simp [releaseChannel]) (by simp [releaseChannel, setLimits, commissionPool])
      (by simpa [openCount, releaseChannel] using claimed) (by simpa [releaseChannel] using room)

theorem JournalKept.move {s t : State} (h : JournalKept s) (m : Move s t) : JournalKept t := by
  have room := h.room
  have claimed := h.claimed
  simp only [unacknowledged] at room
  cases m with
  | engine m => exact h.engineMove m
  | second =>
    refine h.same rfl rfl ?_ room
    rw [openCount_congr (s := s) fun k => by simp only [Tab.get_map]; cases s.slots.get k <;> rfl]
    exact claimed
  | @hand k o _ slot =>
    refine h.same rfl rfl ?_ room
    rw [openCount_congr (s := s) fun j => ?_]
    · exact claimed
    · simp only [setSlot_slots, Tab.get_set]
      split
      · rename_i e; rw [e, slot]; rfl
      · rfl
  | cold => exact ⟨rfl, (by decide : 0 + 0 ≤ 512), (by decide : 0 < 4294967296), fun i e he => by simp [State.reset, coldAudit] at he⟩
  | _ =>
    exact h.same (by simp [raiseAlarm, rearmNearFull, resetContexts, takeSource])
      (by simp [raiseAlarm, rearmNearFull, resetContexts, takeSource])
      (by simpa [openCount, raiseAlarm, rearmNearFull, resetContexts, takeSource] using claimed)
      (by simpa [raiseAlarm, rearmNearFull, resetContexts, takeSource] using room)

/-- Settles O51: an entry takes the movement sequence, an acknowledgement drops the oldest, and a claim stands for each
OPEN record. -/
theorem journalHeld : Obligations.JournalHeld := fun _ _ hs step =>
  step_keeps (fun _ _ h => ⟨h.claimed, h.room, h.next, h.sequence⟩) (fun _ _ m h => h.move m) hs step

end Sys2Proof.Safety
end

section
/-! The refill log, the tags of the open imprint table, the stock table and the watch channels (R10, R38, R39, R81, R89, R90,
R128, R129): what every movement makes of them. -/

namespace Sys2Proof.Safety

open Sys2Proof.Machine Sys2Proof.Config

/-! ### The refill log (R81) -/

/-- No serial of a rising log lies above its newest. -/
theorem le_newest {l : List Nat} (rising : l.Pairwise (· < ·)) {a : Nat} (ha : a ∈ l) : a ≤ l.getLast?.getD 0 := by
  rcases List.eq_nil_or_concat l with rfl | ⟨init, last, rfl⟩
  · cases ha
  · rw [List.concat_eq_append] at rising ha ⊢
    rw [List.pairwise_append] at rising
    rcases List.mem_append.1 ha with h | h
    · simpa using (rising.2.2 a h last (List.mem_singleton_self last)).le
    · simpa using (List.mem_singleton.1 h).le

theorem RefillLogKept.same {s t : State} (h : RefillLogKept s) (log : t.audit.refillLog = s.audit.refillLog)
    (voucher : t.pool.lastVoucher = s.pool.lastVoucher) : RefillLogKept t :=
  ⟨log ▸ h.size, log ▸ h.rising, by rw [voucher, log]; exact h.newest⟩

/-- A refill whose serial is next in turn joins the newest end. -/
theorem RefillLogKept.push {s t : State} (h : RefillLogKept s) {e : RefillEntry}
    (log : t.audit.refillLog = pushRefill s.audit.refillLog e) (voucher : t.pool.lastVoucher = e.serial)
    (next : e.serial = s.pool.lastVoucher + 1) : RefillLogKept t := by
  have above : ∀ a ∈ s.audit.refillLog.map RefillEntry.serial, a < e.serial := fun a ha => by
    have newest := h.newest
    have le := le_newest h.rising ha
    rw [List.getLast?_map] at le
    omega
  have rising : ((s.audit.refillLog ++ [e]).map RefillEntry.serial).Pairwise (· < ·) := by
    rw [List.map_append, List.pairwise_append]
    exact ⟨h.rising, List.pairwise_singleton _ _, fun a ha b hb => by rw [List.mem_singleton.1 hb]; exact above a ha⟩
  have size := h.size
  refine ⟨?_, ?_, ?_⟩ <;> rw [log, pushRefill]
  · simp only [List.length_drop, List.length_append, List.length_cons, List.length_nil, refillLogCapacity]
    omega
  · rw [List.map_drop]
    exact rising.sublist (List.drop_sublist _ _)
  · rw [List.getLast?_drop, if_neg (by simp [refillLogCapacity]), List.getLast?_append, voucher]
    rfl

theorem RefillLogKept.move {s t : State} (h : RefillLogKept s) (m : Move s t) : RefillLogKept t := by
  cases m with
  | engine m =>
    cases m with
    | refill _ next => exact h.push (by simp [refillMovement]; rfl) (by simp [refillMovement]) next
    | _ =>
      exact h.same (by simp [openRecord, takeClaim, settle, writeClaimed, writeEntry, cancelRecord, releaseClaim,
          returnToGateway, receiveStamps, moveStamps, closeMovement, releaseChannel])
        (by simp [openRecord, takeClaim, settle, writeClaimed, writeEntry, cancelRecord, releaseClaim, returnToGateway,
          receiveStamps, moveStamps, closeMovement, releaseChannel, setLimits, commissionPool])
  | cold => exact ⟨Nat.zero_le _, List.Pairwise.nil, rfl⟩
  | _ =>
    exact h.same (by simp [raiseAlarm, rearmNearFull, resetContexts, takeSource])
      (by simp [raiseAlarm, rearmNearFull, resetContexts, takeSource])

/-- Settles O52: only a refill writes the log, with the serial that follows the last voucher's. -/
theorem refillLogHeld : Obligations.RefillLogHeld := fun _ _ hs step =>
  step_keeps (fun _ _ h => ⟨h.size, h.rising, h.newest⟩) (fun _ _ m h => h.move m) hs step

/-! ### The tags and the open records of a head (R10, R38, R39) -/

theorem tagAfter_eq {t : Nat} (low : 1 ≤ t) (high : t ≤ 65535) : tagAfter t = t % 65535 + 1 := by
  unfold tagAfter
  split <;> omega

/-- The candidate tags go round the 65,535 tags. -/
theorem repeat_tagAfter {t : Nat} (low : 1 ≤ t) (high : t ≤ 65535) (i : Nat) :
    Nat.repeat tagAfter i t = (t - 1 + i) % 65535 + 1 := by
  induction i with
  | zero => simp only [Nat.repeat]; omega
  | succ i ih =>
    rw [Nat.repeat, ih, tagAfter_eq (by omega) (by omega)]
    omega

theorem length_openTags_le (s : State) : (openTags s).length ≤ 16 :=
  (List.length_filterMap_le _ _).trans_eq s.slots.size

/-- Behind the first candidate, whatever it is, the candidates go round the 65,535 tags. -/
theorem repeat_tagAfter_succ (t i : Nat) : Nat.repeat tagAfter (i + 1) t = (tagAfter t - 1 + i) % 65535 + 1 := by
  have range : 1 ≤ tagAfter t ∧ tagAfter t ≤ 65535 := by unfold tagAfter; split <;> omega
  induction i with
  | zero => change tagAfter t = _; omega
  | succ i ih =>
    rw [Nat.repeat, ih, tagAfter_eq (by omega) (by omega)]
    omega

theorem tags_distinct (t : Nat) : ((List.range 17).map fun j => Nat.repeat tagAfter j t).Nodup := by
  have first : ∀ j, j < 16 → Nat.repeat tagAfter (j + 1) t ≠ t := fun j hj => by
    rw [repeat_tagAfter_succ]
    unfold tagAfter
    split <;> omega
  refine List.Nodup.map_on (fun a ha b hb eq => ?_) List.nodup_range
  rw [List.mem_range] at ha hb
  match a, b with
  | 0, 0 => rfl
  | 0, b + 1 => exact absurd eq.symm (first b (by omega))
  | a + 1, 0 => exact absurd eq (first a (by omega))
  | a + 1, b + 1 =>
    rw [repeat_tagAfter_succ, repeat_tagAfter_succ] at eq
    omega

/-- Of 17 candidates one is free, since 16 records are open at most (R10). -/
theorem chooseTag_not_mem (s : State) (t : Nat) : chooseTag (openTags s) 17 t ∉ openTags s := by
  obtain ⟨i, le, value, passed, free⟩ := chooseTag_spec (openTags s) 17 t
  refine free (lt_of_le_of_ne le fun e => ?_)
  have used : (List.range 17).map (fun j => Nat.repeat tagAfter j t) ⊆ openTags s := fun x hx => by
    obtain ⟨j, hj, rfl⟩ := List.mem_map.1 hx
    exact passed j (by rw [e]; exact List.mem_range.1 hj)
  have count := (List.subperm_of_subset (tags_distinct t) used).length_le
  have few := length_openTags_le s
  rw [List.length_map, List.length_range] at count
  omega

/-- The chosen tag is in range, and no open record holds it (R10). -/
theorem chooseTag_free {s : State} {t : Nat} (low : 1 ≤ t) (high : t ≤ 65535) :
    (1 ≤ chooseTag (openTags s) 17 t ∧ chooseTag (openTags s) 17 t ≤ 65535) ∧ chooseTag (openTags s) 17 t ∉ openTags s := by
  obtain ⟨i, -, value, -⟩ := chooseTag_spec (openTags s) 17 t
  refine ⟨?_, chooseTag_not_mem s t⟩
  rw [value, repeat_tagAfter low high]
  omega

/-- What of an open record the tags and the counts of the heads rest on. -/
def tagAndHead (o : OpenImprint) : Nat × Head := (o.tag, o.head)

theorem ownedBy_eq (h : Head) (x : Option OpenImprint) :
    ownedBy h x = (x.map tagAndHead).any fun p => decide (p.2 = h) := by
  cases x <;> rfl

/-- A movement that leaves the tags and heads of the slots. -/
theorem TagsKept.same {s t : State} (h : TagsKept s) (next : t.pool.nextTag = s.pool.nextTag)
    (slots : ∀ k, (t.slots.get k).map tagAndHead = (s.slots.get k).map tagAndHead) : TagsKept t := by
  have back : ∀ k o, t.slots.get k = some o → ∃ o', s.slots.get k = some o' ∧ o'.tag = o.tag := fun k o ho => by
    have e := slots k
    rw [ho, Option.map_some, eq_comm, Option.map_eq_some_iff] at e
    obtain ⟨o', ho', e⟩ := e
    exact ⟨o', ho', congrArg Prod.fst e⟩
  refine ⟨next ▸ h.next, fun k o ho => ?_, fun j k o o' ho ho' e => ?_, fun x => ?_⟩
  · obtain ⟨p, hp, e⟩ := back k o ho
    exact e ▸ h.range k p hp
  · obtain ⟨p, hp, ep⟩ := back j o ho
    obtain ⟨p', hp', ep'⟩ := back k o' ho'
    exact h.unique j k p p' hp hp' (ep.trans (e.trans ep'.symm))
  · have count : headOpenCount x t = headOpenCount x s := by
      unfold headOpenCount
      rw [Tab.count_eq_sum, Tab.count_eq_sum]
      exact Tab.sum_congr fun k => by rw [ownedBy_eq, ownedBy_eq, slots]
    exact count ▸ h.limit x

/-- A movement that frees a slot. -/
theorem TagsKept.close {s t : State} (h : TagsKept s) {k : SlotNo} (next : t.pool.nextTag = s.pool.nextTag)
    (slots : t.slots = s.slots.set k none) : TagsKept t := by
  have back : ∀ j o, t.slots.get j = some o → s.slots.get j = some o := fun j o ho => by
    rw [slots, Tab.get_set] at ho
    split at ho
    · cases ho
    · exact ho
  refine ⟨next ▸ h.next, fun j o ho => h.range j o (back j o ho),
    fun i j o o' ho ho' e => h.unique i j o o' (back i o ho) (back j o' ho') e, fun x => ?_⟩
  have count := s.slots.count_set k none (ownedBy x)
  have limit := h.limit x
  unfold headOpenCount at limit ⊢
  rw [slots]
  simp only [ownedBy, Bool.toNat_false] at count
  omega

/-- A movement that opens a record under a free tag, where its head has room. -/
theorem TagsKept.open {s t : State} (h : TagsKept s) {k : SlotNo} {o : OpenImprint} (free : s.slots.get k = none)
    (range : 1 ≤ o.tag ∧ o.tag ≤ 65535) (fresh : o.tag ∉ openTags s) (room : headOpenCount o.head s < 4)
    (next : t.pool.nextTag = tagAfter o.tag) (slots : t.slots = s.slots.set k (some o)) : TagsKept t := by
  have back : ∀ j o', t.slots.get j = some o' → (j = k ∧ o = o') ∨ (j ≠ k ∧ s.slots.get j = some o') := fun j o' ho => by
    rw [slots, Tab.get_set] at ho
    split at ho
    · exact .inl ⟨‹_›, Option.some.inj ho⟩
    · exact .inr ⟨‹_›, ho⟩
  have other : ∀ j o', s.slots.get j = some o' → o'.tag ≠ o.tag := fun j o' ho e => fresh (mem_openTags.2 ⟨j, o', ho, e⟩)
  refine ⟨?_, fun j o' ho => ?_, fun i j p p' hp hp' e => ?_, fun x => ?_⟩
  · rw [next, tagAfter_eq range.1 range.2]; omega
  · rcases back j o' ho with ⟨-, rfl⟩ | ⟨-, ho⟩
    · exact range
    · exact h.range j o' ho
  · rcases back i p hp with ⟨rfl, rfl⟩ | ⟨-, hp⟩ <;> rcases back j p' hp' with ⟨rfl, rfl⟩ | ⟨-, hp'⟩
    · rfl
    · exact absurd e.symm (other j p' hp')
    · exact absurd e (other i p hp)
    · exact h.unique i j p p' hp hp' e
  · have count := s.slots.count_set k (some o) (ownedBy x)
    have limit := h.limit x
    unfold headOpenCount at limit room ⊢
    rw [slots]
    simp only [free, ownedBy, Bool.toNat_false] at count
    by_cases e : o.head = x
    · subst e
      simp only [decide_true, Bool.toNat_true] at count
      omega
    · simp only [e, decide_false, Bool.toNat_false] at count
      omega

theorem TagsKept.move {s t : State} (h : TagsKept s) (m : Move s t) : TagsKept t := by
  cases m with
  | engine m =>
    cases m with
    | @reserve hd a b k _ _ _ _ free room =>
      obtain ⟨range, fresh⟩ := chooseTag_free (s := s) h.next.1 h.next.2
      exact h.open (o := newRecord hd a b s) free range fresh room (by simp [openRecord, takeClaim])
        (by simp [openRecord, takeClaim])
    | settle => exact h.close (by simp [settle, writeClaimed, writeEntry]) rfl
    | cancel => exact h.close (by simp [cancelRecord, releaseClaim]) (by simp [cancelRecord, releaseClaim]; rfl)
    | _ =>
      exact h.same (by simp [refillMovement, returnToGateway, receiveStamps, moveStamps, closeMovement, releaseChannel,
          setLimits, commissionPool])
        fun _ => by simp [refillMovement, returnToGateway, receiveStamps, moveStamps, closeMovement, releaseChannel]
  | second => exact h.same rfl fun k => by rw [Tab.get_map]; cases s.slots.get k <;> rfl
  | @hand k o _ slot =>
    refine h.same rfl fun j => ?_
    rw [setSlot_slots, Tab.get_set]
    split
    · rename_i e; rw [e, slot]; rfl
    · rfl
  | cold =>
    refine ⟨⟨Nat.le_refl 1, (by decide : 1 ≤ 65535)⟩, fun k o ho => ?_, fun j k o o' ho _ _ => ?_, fun x => ?_⟩
    · exact absurd ((Tab.get_fill none k).symm.trans ho) nofun
    · exact absurd ((Tab.get_fill none j).symm.trans ho) nofun
    · have none : headOpenCount x { State.reset with pending := s.pending } = 0 :=
        (Tab.count_eq_sum _ _).trans (Tab.sum_fill_zero (n := 16) none _ rfl)
      omega
  | _ =>
    exact h.same (by simp [raiseAlarm, rearmNearFull, resetContexts, takeSource])
      fun _ => by simp [raiseAlarm, rearmNearFull, resetContexts, takeSource]

/-- Settles O53: a reserve takes a free tag where its head has room, and every other movement frees slots or leaves them. -/
theorem tagsHeld : Obligations.TagsHeld := fun _ _ hs step =>
  step_keeps (fun _ _ h => ⟨h.next, h.range, h.unique, h.limit⟩) (fun _ _ m h => h.move m) hs step

/-! ### The stock table (R89, R90, R93) -/

theorem StockKept.same {s t : State} (h : StockKept s) (e : t.stock = s.stock) : StockKept t := fun k => e ▸ h k

theorem StockKept.modify {s t : State} (h : StockKept s) {k : EntryNo} {f : StockEntry → StockEntry}
    (e : t.stock = s.stock.modify k f) (kept : StockEntryKept (f (s.stock.get k))) : StockKept t := fun j => by
  rw [e, Tab.get_modify]
  split
  · rename_i e; exact e ▸ kept
  · exact h j

theorem StockEntryKept.movedEntry {r : StockEntry} (h : StockEntryKept r) {n d : Nat} (issue : Bool) (held : n ≤ r.onHand)
    (active : r.state = .active d) : StockEntryKept (movedEntry issue n r) := by
  have balance := h.balance
  have sum : (Machine.movedEntry issue n r).onHand + (Machine.movedEntry issue n r).issued +
      (Machine.movedEntry issue n r).spoiled = r.onHand + r.issued + r.spoiled := by
    unfold Machine.movedEntry
    split <;> dsimp only <;> omega
  cases issue
  all_goals
    exact ⟨balance.trans sum.symm, h.received, h.denomination, h.lastCounted, fun e => absurd (active.symm.trans e) nofun⟩

theorem StockKept.move {s t : State} (h : StockKept s) (m : Move s t) : StockKept t := by
  cases m with
  | engine m =>
    cases m with
    | @define k _ _ _ unused inRange =>
      obtain ⟨balance, received, _, counted, _⟩ := h k
      refine h.modify (modStock_stock ..) ⟨balance, received, fun d e => ?_, counted, nofun⟩
      rcases e with ⟨⟨⟩⟩ | ⟨⟨⟩⟩
      exact inRange
    | @retire k d _ _ active =>
      obtain ⟨balance, received, denomination, counted, _⟩ := h k
      refine h.modify (modStock_stock ..) ⟨balance, received, fun d' e => ?_, counted, nofun⟩
      rcases e with ⟨⟨⟩⟩ | ⟨⟨⟩⟩
      exact denomination d (.inl active)
    | @countShelf k n _ _ used inRange =>
      obtain ⟨balance, received, denomination, _, _⟩ := h k
      refine h.modify (modStock_stock ..) ⟨balance, received, denomination, fun n' d e => ?_, fun e => absurd e used⟩
      cases e
      exact inRange
    | @clearMismatch k _ =>
      obtain ⟨balance, received, denomination, counted, unused⟩ := h k
      exact h.modify (modStock_stock ..)
        ⟨balance, received, denomination, counted, fun e => ⟨(unused e).1, rfl, (unused e).2.2⟩⟩
    | @receiveStamps k n d _ _ active limit =>
      obtain ⟨balance, received, denomination, counted, unused⟩ := h k
      refine h.modify (by simp [Machine.receiveStamps]; rfl) ⟨?_, limit, denomination, counted, fun e => ?_⟩
      · dsimp only; omega
      · exact absurd (active.symm.trans e) nofun
    | @moveStamps issue k n d _ _ active onHand =>
      exact h.modify (by simp [Machine.moveStamps]) ((h k).movedEntry issue onHand active)
    | _ =>
      exact h.same (by simp [openRecord, takeClaim, settle, writeClaimed, writeEntry, cancelRecord, releaseClaim,
        refillMovement, returnToGateway, closeMovement, releaseChannel])
  | cold =>
    intro k
    have e : ({ State.reset with pending := s.pending }).stock.get k = coldStock := Tab.get_fill _ k
    rw [e]
    exact ⟨rfl, Nat.zero_le _, fun d e => by rcases e with ⟨⟨⟩⟩ | ⟨⟨⟩⟩, nofun, fun _ => ⟨rfl, rfl, rfl⟩⟩
  | _ => exact h.same (by simp [raiseAlarm, rearmNearFull, resetContexts, takeSource])

/-- Settles O54: each request of the stock table keeps the balance and the ranges of its entry. -/
theorem stockHeld : Obligations.StockHeld := fun _ _ hs step =>
  step_keeps (fun _ _ h => h) (fun _ _ m h => h.move m) hs step

/-! ### The watch channels (R128, R129) -/

theorem ticked_one {ch : Channel} (e : ch.prescale = .one) : ticked ch = { ch with count := ch.count - 1 } := by
  simp [ticked, e]

theorem ticked_hundred {ch : Channel} (e : ch.prescale = .hundred) (full : 99 ≤ ch.prescaleCount) :
    ticked ch = { ch with prescaleCount := 0, count := ch.count - 1 } := by
  simp [ticked, e, full]

theorem ticked_part {ch : Channel} (e : ch.prescale = .hundred) (part : ¬99 ≤ ch.prescaleCount) :
    ticked ch = { ch with prescaleCount := ch.prescaleCount + 1 } := by
  simp [ticked, e, part]

/-- The next counted event brings a channel to zero when it counts at once or its hundred is full (R137). -/
theorem atLastEvent_iff (ch : Channel) :
    atLastEvent ch = true ↔ ch.count ≤ 1 ∧ (ch.prescale = .one ∨ 99 ≤ ch.prescaleCount) := by
  cases e : ch.prescale <;> simp [atLastEvent, e]

/-- A RUNNING channel that an event does not bring to zero keeps a count above 0. -/
theorem ChannelInRange.ticked {ch : Channel} (h : ChannelInRange ch) (running : ch.state = .running)
    (last : ¬atLastEvent ch = true) : ChannelInRange (ticked ch) := by
  obtain ⟨unloaded, count, reload, pending, pre, prescale, held⟩ := h
  rw [atLastEvent_iff] at last
  have counts : ch.count - 1 ≠ 0 → (ch.count - 1 = 0 ↔ ch.state = .unloaded) := fun positive => by simp [positive, running]
  cases e : ch.prescale with
  | one =>
    rw [ticked_one e]
    exact ⟨counts (by rw [e] at last; simp at last; omega), (Nat.sub_le _ _).trans count, reload, pending, pre, prescale, held⟩
  | hundred =>
    by_cases full : 99 ≤ ch.prescaleCount
    · rw [ticked_hundred e full]
      exact ⟨counts (by simp [full] at last; omega), (Nat.sub_le _ _).trans count, reload, pending, Nat.zero_le _, prescale,
        held⟩
    · rw [ticked_part e full]
      exact ⟨unloaded, count, reload, pending, by dsimp only; omega, prescale, held⟩

theorem ChannelInRange.reloaded {ch : Channel} (h : ChannelInRange ch) (running : ch.state = .running) :
    ChannelInRange (reloaded ch) := by
  have inRange : 1 ≤ ch.pendingReload.getD ch.reload ∧ ch.pendingReload.getD ch.reload ≤ 65536 := by
    cases e : ch.pendingReload with
    | none => exact h.reload
    | some n => exact h.pendingReload n e
  exact ⟨by simp only [Machine.reloaded, running]; simp; omega, inRange.2, inRange, nofun, Nat.zero_le _, h.held, h.held⟩

theorem ChannelInRange.next {ch : Channel} (h : ChannelInRange ch) : ChannelInRange (nextChannel ch) := by
  unfold nextChannel
  split
  · rename_i waiting
    have positive : ch.count ≠ 0 := fun e => by rw [h.unloaded.1 e] at waiting; cases waiting
    exact ⟨by simp [positive], h.count, h.reload, h.pendingReload, h.prescaleCount, h.prescale, h.held⟩
  · rename_i running
    split
    · exact h.reloaded running
    · rename_i last; exact h.ticked running last
  · exact h

theorem reloadOf_range {n : Nat} (h : n ≤ 65535) : 1 ≤ reloadOf n ∧ reloadOf n ≤ 65536 := by
  unfold reloadOf
  split <;> omega

theorem ChannelInRange.writeControls {ch : Channel} (h : ChannelInRange ch) {f : Controls}
    (pieces : f.prescale = .hundred → f.source = .pieces) : ChannelInRange (writeControls f ch) :=
  ⟨h.unloaded, h.count, h.reload, h.pendingReload, h.prescaleCount, pieces, pieces⟩

theorem ChannelInRange.holdControls {ch : Channel} (h : ChannelInRange ch) {f : Controls}
    (pieces : f.prescale = .hundred → f.source = .pieces) : ChannelInRange (holdControls f ch) := by
  refine ⟨h.unloaded, h.count, h.reload, h.pendingReload, h.prescaleCount, h.prescale, ?_⟩
  have prescale : (Machine.holdControls f ch).heldPrescale.getD ch.prescale = f.prescale := by
    simp only [Machine.holdControls]; split <;> simp_all
  have source : (Machine.holdControls f ch).heldSource.getD ch.source = f.source := by
    simp only [Machine.holdControls]; split <;> simp_all
  exact fun e => source.trans (pieces (prescale.symm.trans e))

theorem ChannelInRange.program {ch : Channel} (h : ChannelInRange ch) {f : Controls} {op : WatchOp}
    (pieces : f.prescale = .hundred → f.source = .pieces) (load : ∀ n, op = .load n → n ≤ 65535) :
    ChannelInRange (programChannel f op ch) := by
  have written := h.writeControls pieces
  have held := h.holdControls pieces
  cases op with
  | load n =>
    have inRange := reloadOf_range (load n rfl)
    unfold programChannel
    dsimp only
    split
    · exact ⟨held.unloaded, held.count, held.reload, fun m e => by cases e; exact inRange, held.prescaleCount, held.prescale,
        held.held⟩
    · refine ⟨?_, inRange.2, inRange, nofun, Nat.zero_le _, written.prescale, written.held⟩
      simp only [loadChannel]
      cases f.start <;> simp <;> omega
  | stop =>
    refine ⟨?_, written.count, written.reload, nofun, written.prescaleCount, written.prescale, written.held⟩
    have unloaded := h.unloaded
    simp only [programChannel, stopChannel, Machine.writeControls]
    split <;> simp_all
  | none =>
    unfold programChannel
    dsimp only
    split
    · exact held
    · exact written

theorem ChannelsKept.same {s t : State} (h : ChannelsKept s) (e : t.channels = s.channels) : ChannelsKept t :=
  fun c => e ▸ h c

theorem ChannelsKept.set {s t : State} (h : ChannelsKept s) {c : ChannelNo} {ch : Channel}
    (e : t.channels = s.channels.set c ch) (kept : ChannelInRange ch) : ChannelsKept t := fun k => by
  rw [e, Tab.get_set]
  split
  · exact kept
  · exact h k

theorem ChannelsKept.move {s t : State} (h : ChannelsKept s) (m : Move s t) : ChannelsKept t := by
  cases m with
  | engine m =>
    cases m with
    | @receive c ev _ => exact h.set (receiveEvent_channels c ev s) (h c).next
    | @program c f op _ _ prescale reload => exact h.set rfl ((h c).program prescale reload)
    | _ =>
      exact h.same (by simp [openRecord, takeClaim, settle, writeClaimed, writeEntry, cancelRecord, releaseClaim,
        refillMovement, returnToGateway, receiveStamps, moveStamps, closeMovement, releaseChannel])
  | cold =>
    intro c
    have e : ({ State.reset with pending := s.pending }).channels.get c = coldChannel := Tab.get_fill _ c
    rw [e]
    exact ⟨by decide, by decide, by decide, nofun, by decide, nofun, nofun⟩
  | _ => exact h.same (by simp [raiseAlarm, rearmNearFull, resetContexts, takeSource])

/-- Settles O56: an event and a WATCH_SET each leave a channel in range. -/
theorem channelsHeld : Obligations.ChannelsHeld := fun _ _ hs step =>
  step_keeps (fun _ _ h => h) (fun _ _ m h => h.move m) hs step

end Sys2Proof.Safety
end

section
/-! The pending rate entries and the records of a BLANK part (R63, R168), and the links (R155, R170): what every movement
makes of them. -/

namespace Sys2Proof.Safety

open Sys2Proof.Machine Sys2Proof.Config

/-! ### The records of a BLANK part (R168) -/

/-- The records that a cold start sets to their cold-start values and a restart keeps (R168). -/
def retained (s : State) : Pool × Tab HeadRecord 6 × Tab (Option OpenImprint) 16 × Tab RateClass 64 × Tab StockEntry 32 ×
    StockDay × Audit × Tab Channel 8 :=
  (s.pool, s.heads, s.slots, s.rates, s.stock, s.stockDay, s.audit, s.channels)

theorem ColdRecords.same {s t : State} (h : ColdRecords s) (e : retained t = retained s) : ColdRecords t := by
  simp only [retained, Prod.mk.injEq] at e
  obtain ⟨pool, heads, slots, rates, stock, stockDay, audit, channels⟩ := e
  exact ⟨pool ▸ h.pool, heads ▸ h.heads, slots ▸ h.slots, rates ▸ h.rates, stock ▸ h.stock, stockDay ▸ h.stockDay,
    audit ▸ h.audit, channels ▸ h.channels⟩

/-- A cold start leaves the cold-start values, whatever commands wait. -/
theorem coldRecords_reset (cs : List Instr) : ColdRecords { State.reset with pending := cs } where
  pool := rfl
  heads := Tab.get_fill _
  slots := Tab.get_fill _
  rates := Tab.get_fill _
  stock := Tab.get_fill _
  stockDay := rfl
  audit := rfl
  channels := Tab.get_fill _

theorem ColdRecords.journal {s : State} (h : ColdRecords s) : s.audit.journal = [] := congrArg Audit.journal h.audit

/-- The near-full evaluation of an empty journal arms. -/
theorem ColdRecords.rearm {s : State} (h : ColdRecords s) : retained (rearmNearFull s) = retained s := by
  have claimed : s.audit.claimed = 0 := congrArg Audit.claimed h.audit
  have armed : s.audit.nearFullArmed = true := congrArg Audit.nearFullArmed h.audit
  have same : modAudit (fun a => { a with nearFullArmed := true }) s = s := by
    unfold modAudit
    rw [← armed]
  have free : journalFree s = 512 := by simp [journalFree, unacknowledged, h.journal, claimed, journalCapacity]
  have evaluated : evaluateNearFull s = s := by
    unfold evaluateNearFull
    rw [free, if_neg (by omega), if_pos (by omega)]
    exact same
  unfold rearmNearFull
  rw [same, evaluated]

/-- A movement of the engine that a BLANK part can make leaves its records. -/
theorem ColdRecords.engineMove {s t : State} (h : ColdRecords s) (blank : s.service.state = .blank)
    (after : t.service.state = .blank) (m : EngineMove s t) : ColdRecords t := by
  have idle : ¬isWorking s.service.state = true := by rw [blank]; decide
  have out : s.service.state ≠ .inService := by rw [blank]; decide
  cases m with
  | receive =>
    rw [receiveEvent_unloaded (congrArg Channel.state (h.channels _))]
    exact h
  | commission => cases after
  | unlock locked => exact absurd (blank.symm.trans locked) nofun
  | settle slot | cancel slot => exact absurd ((h.slots _).symm.trans slot) nofun
  | @acknowledge n _ held =>
    have none : n = 0 := by simpa [unacknowledged, h.journal] using held
    subst none
    exact h.same (by simp [Machine.acknowledge, retained])
  | limits working | headItems working | rate working | define working | retire working | countShelf working
  | clearMismatch working | moveStamps working | close working | program working | release working =>
    exact absurd working idle
  | reserve inService | refill inService | giveBack inService | decommission inService | receiveStamps inService =>
    exact absurd inService out
  | raise | done | hold | nesting | fault => exact h.same (by simp [retained])

/-- A part that is BLANK after a movement was BLANK before, but for a cold start, and its records stand. -/
theorem ColdRecords.move {s t : State} (back : ReturnStateKept s.service) (h : s.service.state = .blank → ColdRecords s)
    (after : t.service.state = .blank) (m : Move s t) : ColdRecords t := by
  cases m with
  | engine m =>
    have blank : s.service.state = .blank := by
      cases m with
      | commission | decommission => cases after
      | unlock locked =>
        rcases (back.target locked).2 with e | e
        · exact absurd (e.symm.trans after) nofun
        · exact absurd (e.symm.trans after) nofun
      | done =>
        rcases returnFromHalted_service _ _ with e | ⟨-, e⟩
        · rw [e] at after; exact after
        · rw [e] at after; cases after
      | _ =>
        simpa [openRecord, takeClaim, settle, writeClaimed, writeEntry, cancelRecord, releaseClaim, refillMovement,
          returnToGateway, receiveStamps, moveStamps, closeMovement, releaseChannel] using after
    exact (h blank).engineMove blank after m
  | arm present => exact absurd after present
  | inputs f kept => exact (h ((kept _).1.symm.trans after)).same rfl
  | alarm =>
    exact (h ((alarmState_blank _ _).1 (by simpa [raiseAlarm] using after))).same (by simp [raiseAlarm, retained])
  | hand slot => exact absurd (((h after).slots _).symm.trans slot) nofun
  | second =>
    obtain ⟨pool, heads, slots, rates, stock, stockDay, audit, channels⟩ := h after
    exact ⟨pool, heads, fun k => by rw [Tab.get_map, slots]; rfl, rates, stock, stockDay, audit, channels⟩
  | contexts => exact (h ((restartState_blank _).1 after)).same rfl
  | rearm =>
    have cold := h (by simpa [rearmNearFull] using after)
    exact cold.same cold.rearm
  | cold => exact coldRecords_reset _
  | _ => exact (h (by simpa [takeSource] using after)).same (by simp [retained, takeSource])

/-! ### The pending rate entries (R63) -/

/-- Every pending entry of a table is later than `day` (R63). -/
def PendingLater (day : Nat) (rates : Tab RateClass 64) : Prop := ∀ c e, (rates.get c).waiting = some e → day < e.effective

/-- An entry that a change leaves pending is later than the day (R65). -/
theorem changedRate_later {content : Option RateEntry} {effective day : Nat} {r : RateClass} {e : PendingEntry}
    (h : (changedRate content effective day r).waiting = some e) : day < e.effective := by
  unfold changedRate effectiveNow at h
  split at h
  · cases h
  · rename_i later
    cases h
    simpa using later

/-- An entry that the close leaves pending is later than the new day (R70). -/
theorem appliedRate_later {day : Nat} {r : RateClass} {e : PendingEntry} (h : (appliedRate day r).waiting = some e) :
    day < e.effective := by
  unfold appliedRate at h
  split at h
  · split at h
    · cases h
    · rename_i waits later
      obtain rfl := Option.some.inj (waits.symm.trans h)
      omega
  · rename_i waits
    exact absurd (waits.symm.trans h) nofun

theorem PendingLater.move {s t : State} (h : PendingLater s.pool.day s.rates)
    (cold : s.service.state = .blank → ColdRecords s) (m : Move s t) : PendingLater t.pool.day t.rates := by
  cases m with
  | engine m =>
    cases m with
    | commission =>
      intro c e waits
      by_cases blank : s.service.state = .blank
      · exact absurd (((congrArg RateClass.waiting ((cold blank).rates c)).symm).trans waits) nofun
      · simpa [commissionPool, blank] using h c e waits
    | @rate c content effective _ _ =>
      intro k e waits
      rw [modRate_rates, Tab.get_modify] at waits
      split at waits
      · exact changedRate_later waits
      · exact h k e waits
    | close =>
      intro c e waits
      simp only [closeMovement, Tab.get_map] at waits
      exact appliedRate_later waits
    | _ =>
      simpa [openRecord, takeClaim, settle, writeClaimed, writeEntry, cancelRecord, releaseClaim, refillMovement,
        returnToGateway, receiveStamps, moveStamps, releaseChannel, setLimits] using h
  | cold => exact fun c e waits => absurd ((congrArg RateClass.waiting (Tab.get_fill coldRate c)).symm.trans waits) nofun
  | rearm => simpa [rearmNearFull] using h
  | _ => simpa [raiseAlarm, resetContexts, takeSource] using h

/-- Settles O55: a change and a close leave later entries alone pending, and a BLANK part makes no movement of its records. -/
theorem pendingEntriesHeld : Obligations.PendingEntriesHeld := fun _ _ hs step =>
  step_keeps (P := PendingEntriesKept)
    (fun _ _ h => ⟨h.returnState, h.later, fun e => (h.blank e).same rfl⟩)
    (fun s _ m h => ⟨h.returnState.move m, PendingLater.move (s := s) h.later h.blank m,
      fun e => ColdRecords.move h.returnState h.blank e m⟩) hs step

/-! ### The links (R155, R170) -/

theorem LinksKept.same {s t : State} (h : LinksKept s) (e : t.links = s.links) : LinksKept t := fun p => e ▸ h p

theorem LinksKept.set {s t : State} (h : LinksKept s) {p : Port} {l : PortLink} (e : t.links = s.links.set p l)
    (kept : LinkKept l) : LinksKept t := fun p' => by
  rw [e, Tab.get_set]
  split
  · exact kept
  · exact h p'

/-- A link after either reset. -/
theorem linkKept_reset : LinkKept resetLink := ⟨.inl rfl, rfl⟩

theorem LinksKept.move {s t : State} (h : LinksKept s) (m : Move s t) : LinksKept t := by
  cases m with
  | engine m =>
    cases m with
    | @fault p _ f kept => exact h.set rfl ⟨(h p).apart, kept _ (h p).fault⟩
    | _ =>
      exact h.same (by simp [openRecord, takeClaim, settle, writeClaimed, writeEntry, cancelRecord, releaseClaim,
        refillMovement, returnToGateway, receiveStamps, moveStamps, closeMovement, releaseChannel])
  | @link p _ l kept => exact h.set rfl (kept (h p))
  | @grant p _ => exact h.set rfl ⟨.inl rfl, (h p).fault⟩
  | contexts | cold => exact fun p => (Tab.get_fill resetLink p).symm ▸ linkKept_reset
  | _ => exact h.same (by simp [raiseAlarm, rearmNearFull, takeSource])

/-- Settles O59: a frame is taken into an empty reply slot and a reply placed beside an empty request slot; the fault record's
code and flag are written together. -/
theorem linksHeld : Obligations.LinksHeld := fun _ _ hs step =>
  step_keeps (fun _ _ h => h) (fun _ _ m h => h.move m) hs step

end Sys2Proof.Safety
end

section
/-! The notice unit and the service state (R144, R146, R147, R154, R158): what every movement makes of the stacks, the pending
set and the hard alarms; the state after reset; the queue. -/

namespace Sys2Proof.Safety

open Sys2Proof.Machine Sys2Proof.Config

/-! ### The notice unit (R144, R146, R147) -/

theorem alarmLevel_le {n : SourceNo} (h : ¬n.val < 32) : 8 ≤ alarmLevel n ∧ alarmLevel n ≤ 11 := by
  unfold alarmLevel
  omega

/-- A level is at most 11 (R145). -/
theorem NoticesKept.sourceLevel_le {u : NoticeUnit} (h : NoticesKept u) (n : SourceNo) : sourceLevel u n ≤ 11 := by
  unfold sourceLevel
  split
  · exact (h.levels _).trans (by decide)
  · exact (alarmLevel_le ‹_›).2

/-- A raise keeps the again-counts, and raises no disabled source (R146). -/
theorem NoticesKept.raise {s : State} (h : NoticesKept s.notices) (n : SourceNo) (d : Detail) :
    NoticesKept (raiseSource n d s).notices := by
  have pending := raiseSource_pending n d s
  obtain ⟨rising, stackLevels, levels, holds, agains, disabled⟩ := h
  rw [raiseSource_eq] at pending ⊢
  refine ⟨rising, stackLevels, levels, holds, fun m r hm => ?_, fun m hm => ?_⟩
  · rw [pending] at hm
    split at hm
    · unfold afterRaise at hm
      split at hm
      · exact agains n r hm
      · split at hm
        · cases hm; exact Nat.zero_le _
        · cases hm; exact Nat.min_le_right _ _
    · exact agains m r hm
  · rw [pending]
    split
    · rename_i e
      subst e
      rw [afterRaise, if_pos (show sourceLevel s.notices m = 0 from hm)]
      exact disabled m hm
    · exact disabled m hm

theorem NoticesKept.evaluateNearFull {s : State} (h : NoticesKept s.notices) : NoticesKept (evaluateNearFull s).notices := by
  unfold Machine.evaluateNearFull
  split
  · exact NoticesKept.raise (s := modAudit _ s) h _ _
  · split <;> exact h

theorem NoticesKept.inhibits {s : State} (h : NoticesKept s.notices) (c : ChannelNo) (hs : List Head) :
    NoticesKept (hs.foldl (inhibitHead c) s).notices := by
  induction hs generalizing s with
  | nil => exact h
  | cons x hs ih =>
    refine ih ?_
    simp only [inhibitHead]
    split
    · exact NoticesKept.raise (s := modHead _ _ s) h _ _
    · exact h

theorem NoticesKept.receiveEvent {s : State} (h : NoticesKept s.notices) (c : ChannelNo) (ev : SourceEvent) :
    NoticesKept (receiveEvent c ev s).notices := by
  have zero : NoticesKept (channelZero c ev s).notices := by
    have notified : NoticesKept (if actionNotifies (reloaded (s.channels.get c)).action then
        raiseSource (srcWatchZero c) (.watchZero c (reloaded (s.channels.get c)).count ev)
          (setChannel c (reloaded (s.channels.get c)) s)
        else setChannel c (reloaded (s.channels.get c)) s).notices := by
      split
      · exact NoticesKept.raise (s := setChannel _ _ s) h _ _
      · exact h
    simp only [channelZero, runActions, setChannel_channels, Tab.get_set_self]
    split
    · exact notified.inhibits c _
    · exact notified
  simp only [Machine.receiveEvent]
  split
  · exact h
  · split
    · exact zero
    · exact h
  · exact h

/-- A change of one port's stack, hold count and option. -/
theorem NoticesKept.port {u : NoticeUnit} (h : NoticesKept u) {p : Port} {x : NoticePort}
    (rising : x.stack.Pairwise (· > ·)) (stackLevels : ∀ l ∈ x.stack, 1 ≤ l ∧ l ≤ 11) (hold : x.holdCount ≤ 255) :
    NoticesKept { u with ports := u.ports.set p x } := by
  refine ⟨fun p' => ?_, fun p' => ?_, h.levels, fun p' => ?_, h.agains, h.disabled⟩ <;> simp only [Tab.get_set]
  · split
    · exact rising
    · exact h.rising p'
  · split
    · exact stackLevels
    · exact h.stackLevels p'
  · split
    · exact hold
    · exact h.holds p'

theorem NoticesKept.unpend {u : NoticeUnit} (h : NoticesKept u) (n : SourceNo) :
    NoticesKept { u with pending := u.pending.set n none } := by
  refine ⟨h.rising, h.stackLevels, h.levels, h.holds, fun m r hm => ?_, fun m hm => ?_⟩
  · simp only [Tab.get_set] at hm
    split at hm
    · cases hm
    · exact h.agains m r hm
  · simp only [Tab.get_set]
    split
    · rfl
    · exact h.disabled m hm

/-- The pushed level is at least the source's, and at most 11 as it is. -/
theorem pushedLevel_range (on : Bool) {l : Nat} (h : l ≤ 11) : l ≤ pushedLevel on l ∧ pushedLevel on l ≤ 11 := by
  unfold pushedLevel
  split <;> omega

/-- A rising stack lies under its top. -/
theorem le_stackTop {stack : List Nat} (h : stack.Pairwise (· > ·)) {l : Nat} (hl : l ∈ stack) : l ≤ stackTop stack := by
  cases stack with
  | nil => cases hl
  | cons a rest =>
    rcases List.mem_cons.1 hl with rfl | hl
    · exact Nat.le_refl _
    · exact ((List.pairwise_cons.1 h).1 l hl).le

/-- Taking an eligible source pushes a level above the stack (R149). -/
theorem NoticesKept.take {s : State} (h : NoticesKept s.notices) {p : Port} {n : SourceNo}
    (above : stackTop (s.notices.ports.get p).stack < sourceLevel s.notices n) : NoticesKept (takeSource p n s).notices := by
  obtain ⟨low, high⟩ := pushedLevel_range (s.notices.ports.get p).noNesting (h.sourceLevel_le n)
  refine (h.unpend n).port (p := p) (List.pairwise_cons.2 ⟨fun l hl => ?_, h.rising p⟩) (fun l hl => ?_) (h.holds p)
  · exact (le_stackTop (h.rising p) hl).trans_lt (above.trans_le low)
  · rcases List.mem_cons.1 hl with rfl | hl
    · exact ⟨(Nat.succ_le_of_lt (Nat.zero_lt_of_lt above)).trans low, high⟩
    · exact h.stackLevels p l hl

/-- Setting a level to 7 at most keeps the unit; a source set to 0 leaves the pending set (R147). -/
theorem NoticesKept.setLevel {u : NoticeUnit} (h : NoticesKept u) {n : Fin 32} {l : Nat} (inRange : l ≤ 7) :
    NoticesKept (setLevel n l u) := by
  have pending : ∀ m, (Machine.setLevel n l u).pending.get m = if l = 0 ∧ m.val = n.val then none else u.pending.get m := by
    intro m
    unfold Machine.setLevel
    by_cases e : l = 0
    · simp only [e, if_true, Tab.get_set, true_and, Fin.ext_iff]
    · simp only [e, if_false, false_and]
  refine ⟨h.rising, h.stackLevels, fun m => ?_, h.holds, fun m r hm => ?_, fun m hm => ?_⟩
  · simp only [Machine.setLevel, Tab.get_set]
    split
    · exact inRange
    · exact h.levels m
  · rw [pending] at hm
    split at hm
    · cases hm
    · exact h.agains m r hm
  · rw [pending]
    split
    · rfl
    · rename_i other
      refine h.disabled m ?_
      unfold sourceLevel at hm ⊢
      split
      · rename_i notice
        simp only [notice, dif_pos, Machine.setLevel, Tab.get_set, Fin.ext_iff] at hm
        split at hm
        · exact absurd ⟨hm, ‹_›⟩ other
        · exact hm
      · rename_i alarm
        rwa [dif_neg alarm] at hm

theorem noticesKept_reset : NoticesKept resetNotices := by
  have port : ∀ p, resetNotices.ports.get p = ⟨[], 0, false⟩ := Tab.get_fill _
  have pending : ∀ n, resetNotices.pending.get n = none := Tab.get_fill _
  refine ⟨fun p => ?_, fun p l hl => ?_, by decide, fun p => ?_, fun n r hr => ?_, fun n _ => pending n⟩
  · rw [port]; exact List.Pairwise.nil
  · rw [port] at hl; cases hl
  · rw [port]; exact Nat.zero_le _
  · rw [pending] at hr; cases hr

theorem NoticesKept.engineMove {s t : State} (h : NoticesKept s.notices) (m : EngineMove s t) : NoticesKept t.notices := by
  cases m with
  | raise => exact h.raise _ _
  | receive => exact h.receiveEvent _ _
  | reserve | cancel | refill | giveBack | receiveStamps | moveStamps | close | decommission =>
    exact NoticesKept.evaluateNearFull (by exact h)
  | acknowledge =>
    unfold Machine.acknowledge
    dsimp only
    split
    · exact h
    · exact NoticesKept.evaluateNearFull (by exact h)
  | @done p l rest _ top =>
    have rising := h.rising p
    have levels := h.stackLevels p
    rw [top] at rising levels
    rw [returnFromHalted_notices]
    exact h.port (p := p) (List.pairwise_cons.1 rising).2 (fun x hx => levels x (List.mem_cons_of_mem _ hx)) (h.holds p)
  | @hold p n _ inRange => exact h.port (p := p) (h.rising p) (h.stackLevels p) inRange
  | @nesting p _ _ => exact h.port (p := p) (h.rising p) (h.stackLevels p) (h.holds p)
  | _ => exact h

theorem NoticesKept.move {s t : State} (h : NoticesKept s.notices) (m : Move s t) : NoticesKept t.notices := by
  cases m with
  | engine m => exact h.engineMove m
  | take _ _ above => exact h.take above
  | level inRange => exact h.setLevel inRange
  | @grant p _ =>
    exact h.port (p := p) (h.rising p) (h.stackLevels p) ((Nat.sub_le _ 1).trans (h.holds p))
  | lowCredit => exact h.raise _ _
  | alarm => exact h.raise _ _
  | rearm => exact NoticesKept.evaluateNearFull (by exact h)
  | contexts | cold => exact noticesKept_reset
  | _ => exact h

/-- Settles O57: a raise, a taking, a pop and a setting of a level each keep the stacks and the ranges. -/
theorem noticesHeld : Obligations.NoticesHeld := fun _ _ hs step =>
  step_keeps (P := fun s => NoticesKept s.notices) (fun _ _ h => h) (fun _ _ m h => h.move m) hs step

/-! ### The hard alarms and HALTED (R153, R154) -/

theorem standingAlarms_ne_nil {u : NoticeUnit} : standingAlarms u ≠ [] ↔ ∃ n ∈ hardAlarms, alarmStands u n = true := by
  simp [standingAlarms, List.filter_eq_nil_iff]

/-- A movement that leaves each standing alarm standing. -/
theorem standing_mono {u w : NoticeUnit} (h : standingAlarms u ≠ [])
    (pending : ∀ n ∈ hardAlarms, (u.pending.get n).isSome = true → (w.pending.get n).isSome = true)
    (stack : ∀ l ∈ (u.ports.get fundingPort).stack, l ∈ (w.ports.get fundingPort).stack) : standingAlarms w ≠ [] := by
  obtain ⟨n, hn, stands⟩ := standingAlarms_ne_nil.1 h
  refine standingAlarms_ne_nil.2 ⟨n, hn, ?_⟩
  simp only [alarmStands, Bool.or_eq_true, List.contains_iff_mem] at stands ⊢
  exact stands.imp (pending n hn) (stack _)

/-- A raise leaves what is pending pending. -/
theorem raiseSource_isSome (n : SourceNo) (d : Detail) (s : State) {m : SourceNo}
    (h : (s.notices.pending.get m).isSome = true) : ((raiseSource n d s).notices.pending.get m).isSome = true := by
  rw [raiseSource_pending]
  split
  · rename_i e
    subst e
    unfold afterRaise
    split
    · exact h
    · split <;> rfl
  · exact h

/-- The hard alarms are alarms of the funding port (R145). -/
theorem alarm_of_hard {n : SourceNo} (hard : n ∈ hardAlarms) : sourceDest n = fundingPort ∧ ¬n.val < 32 := by
  revert n; decide

/-- A hard alarm that is raised is pending. -/
theorem raiseSource_alarm {n : SourceNo} (hard : n ∈ hardAlarms) (d : Detail) (s : State) :
    ((raiseSource n d s).notices.pending.get n).isSome = true := by
  have alarm := (alarm_of_hard hard).2
  have level : sourceLevel s.notices n ≠ 0 := by
    rw [sourceLevel, dif_neg alarm]
    exact Nat.ne_of_gt (Nat.lt_of_lt_of_le (by decide) (alarmLevel_le alarm).1)
  rw [raiseSource_pending, if_pos rfl, afterRaise, if_neg level]
  split <;> rfl

theorem not_watchSource_of_hard {n : SourceNo} (hard : n ∈ hardAlarms) : n ∉ watchSources [] := by
  revert n; decide

theorem ne_nearFull_of_hard {n : SourceNo} (hard : n ∈ hardAlarms) : n ≠ srcNearFull := by
  revert n; decide

/-- A standing alarm that is taken stands on the stack of the funding port (R149, R153). -/
theorem standing_take {s : State} (h : standingAlarms s.notices ≠ []) {p : Port} {n : SourceNo} (dest : sourceDest n = p) :
    standingAlarms (takeSource p n s).notices ≠ [] := by
  obtain ⟨m, hm, stands⟩ := standingAlarms_ne_nil.1 h
  refine standingAlarms_ne_nil.2 ⟨m, hm, ?_⟩
  simp only [alarmStands, Bool.or_eq_true, List.contains_iff_mem] at stands ⊢
  rcases stands with pending | level
  · by_cases e : m = n
    · subst e
      right
      have taken := alarm_of_hard hm
      rw [takeSource_stack, if_pos (taken.1.symm.trans dest), sourceLevel, dif_neg taken.2, pushedLevel,
        if_neg (by have := (alarmLevel_le taken.2).1; omega)]
      exact List.mem_cons_self
    · left
      rwa [takeSource_pending, Tab.get_set_ne _ _ e]
  · right
    rw [takeSource_stack]
    split
    · rename_i e; exact List.mem_cons_of_mem _ (e ▸ level)
    · exact level

/-- The return from HALTED is made exactly when a funding port's NOTICE_DONE leaves no alarm standing (R154). -/
theorem standing_done {p : Port} {s : State} {rest : List Nat}
    (h : s.service.state = .halted → standingAlarms s.notices ≠ [])
    (after : (returnFromHalted p (modNoticePort p (fun x => { x with stack := rest }) s)).service.state = .halted) :
    standingAlarms (returnFromHalted p (modNoticePort p (fun x => { x with stack := rest }) s)).notices ≠ [] := by
  unfold returnFromHalted at after ⊢
  split at after
  · cases after
  · rename_i stays
    rw [if_neg stays]
    by_cases funding : p = fundingPort
    · exact fun none => stays ⟨funding, after, none⟩
    · refine standing_mono (h after) (fun _ _ e => e) fun l hl => ?_
      rwa [modNoticePort_notices, Tab.get_modify_ne _ _ (Ne.symm funding)]

theorem HaltedKept.engineMove {s t : State} (h : HaltedKept s) (m : EngineMove s t) (after : t.service.state = .halted) :
    standingAlarms t.notices ≠ [] := by
  cases m with
  | raise => exact standing_mono (h.alarm (by simpa using after)) (fun _ _ => raiseSource_isSome _ _ _) (by simp)
  | receive =>
    exact standing_mono (h.alarm (by simpa using after))
      (fun n hn e => by rwa [(CountStep.receiveEvent _ _ s).raises n (not_watchSource_of_hard hn)]) (by simp)
  | commission | decommission => cases after
  | unlock locked =>
    rcases (h.returnState.target locked).2 with e | e
    · exact absurd (e.symm.trans after) nofun
    · exact absurd (e.symm.trans after) nofun
  | done => exact standing_done h.alarm after
  | hold | nesting =>
    exact standing_mono (h.alarm after) (fun _ _ e => e) fun l hl => by
      rw [modNoticePort_notices, Tab.get_modify]
      split <;> exact hl
  | reserve | cancel | refill | giveBack | receiveStamps | moveStamps | close =>
    refine standing_mono (h.alarm (by simpa [openRecord, takeClaim, cancelRecord, releaseClaim, refillMovement,
      returnToGateway, receiveStamps, moveStamps, closeMovement] using after)) (fun n hn e => ?_) ?_
    · exact (congrArg Option.isSome (evaluateNearFull_pending _ (ne_nearFull_of_hard hn))).trans e
    · simp [openRecord, takeClaim, cancelRecord, releaseClaim, refillMovement, returnToGateway, receiveStamps, moveStamps,
        closeMovement]
  | acknowledge =>
    refine standing_mono (h.alarm (by simpa using after)) (fun n hn e => ?_) (by simp)
    unfold Machine.acknowledge
    dsimp only
    split
    · exact e
    · exact (congrArg Option.isSome (evaluateNearFull_pending _ (ne_nearFull_of_hard hn))).trans e
  | _ => exact h.alarm after

theorem HaltedKept.move {s t : State} (h : HaltedKept s) (m : Move s t) : HaltedKept t := by
  refine ⟨h.returnState.move m, fun after => ?_⟩
  cases m with
  | engine m => exact h.engineMove m after
  | take dest => exact standing_take (h.alarm after) dest
  | @level n l _ _ =>
    refine standing_mono (h.alarm after) (fun m hm e => ?_) fun _ hl => hl
    have other : m ≠ ⟨n.val, by omega⟩ := fun e => (alarm_of_hard hm).2 (e ▸ n.isLt)
    simp only [modNotices_notices, setLevel]
    split
    · rwa [Tab.get_set_ne _ _ other]
    · exact e
  | grant =>
    exact standing_mono (h.alarm after) (fun _ _ e => e) fun l hl => by rwa [grant_stack]
  | lowCredit => exact standing_mono (h.alarm (by simpa using after)) (fun _ _ => raiseSource_isSome _ _ _) (by simp)
  | inputs f kept => exact h.alarm ((kept _).1.symm.trans after)
  | alarm hard => exact standingAlarms_ne_nil.2 ⟨_, hard, by
      simp only [alarmStands, Bool.or_eq_true]; exact .inl (raiseSource_alarm hard _ _)⟩
  | contexts => exact absurd after (by cases e : s.service.state <;> simp [resetContexts, restartState, e])
  | rearm =>
    refine standing_mono (h.alarm (by simpa [rearmNearFull] using after)) (fun n hn e => ?_) (by simp [rearmNearFull])
    exact (congrArg Option.isSome (evaluateNearFull_pending _ (ne_nearFull_of_hard hn))).trans e
  | cold => cases after
  | _ => exact h.alarm after

/-- Settles O58: an alarm that halts the part stands, a standing alarm leaves with a NOTICE_DONE alone, and that one evaluates
the return. -/
theorem haltedHeld : Obligations.HaltedHeld := fun _ _ hs step =>
  step_keeps (P := HaltedKept) (fun _ _ h => ⟨h.returnState, h.alarm⟩) (fun _ _ m h => h.move m) hs step

/-! ### The queue (log 5) -/

/-- No movement touches the queue of commands. -/
theorem queue_of_move {s t : State} (m : Move s t) : t.pending = s.pending := by
  cases m with
  | engine m =>
    cases m with
    | _ =>
      simp [openRecord, takeClaim, settle, writeClaimed, writeEntry, cancelRecord, releaseClaim, refillMovement,
        returnToGateway, receiveStamps, moveStamps, closeMovement, releaseChannel]
  | _ => simp [raiseAlarm, rearmNearFull, resetContexts, takeSource]

/-- Settles O2: every command is a sequence of movements. -/
theorem everyCommandCompletes : Obligations.EveryCommandCompletes := by
  intro c s
  obtain ⟨t, e, moves⟩ := exec_moves c s
  refine ⟨t, e, ?_⟩
  clear e
  induction moves with
  | refl => rfl
  | tail _ m ih => exact (queue_of_move m).trans ih

/-- Settles O1. -/
theorem stepTakesFrontCommand : Obligations.StepTakesFrontCommand := by
  refine fun s => ⟨fun h => ?_, fun c rest h => ?_⟩
  · rw [step, h]
  · rw [step, h]

end Sys2Proof.Safety
end

section
/-! The state right after reset meets the invariants, and the low-credit evaluation follows every granted request (R6, R168). -/

namespace Sys2Proof.Safety

open Sys2Proof.Machine Sys2Proof.Config

/-! ### The state right after reset (log 1) -/

theorem ceilingKept_reset : CeilingKept State.reset :=
  ⟨creditKept_reset [], (returnStateKept_iff (by decide)).2 rfl, fun _ => rfl, fun _ => Tab.get_fill _, Nat.le_refl 0⟩

theorem rangesKept_reset : RangesKept State.reset where
  toCeilingKept := ceilingKept_reset
  lanes := fun k o ho => absurd ((Tab.get_fill none k).symm.trans ho) nofun
  holds := fun k o ho => absurd ((Tab.get_fill none k).symm.trans ho) nofun
  poolRange := poolLimits_cold.inRange (s := State.reset) ceilingKept_reset
  headRange := fun h => by
    have e : State.reset.heads.get h = coldHead := Tab.get_fill ..
    rw [e]
    constructor <;> simp [coldHead]
  valueSettled := by decide

theorem tagsKept_reset : TagsKept State.reset :=
  ⟨by decide, fun k o ho => absurd ((Tab.get_fill none k).symm.trans ho) nofun,
    fun j k o o' ho _ _ => absurd ((Tab.get_fill none j).symm.trans ho) nofun, by decide⟩

theorem stockKept_reset : StockKept State.reset := fun k => by
  have e : State.reset.stock.get k = coldStock := Tab.get_fill _ k
  rw [e]
  exact ⟨rfl, Nat.zero_le _, fun d e => e.elim nofun nofun, nofun, fun _ => ⟨rfl, rfl, rfl⟩⟩

theorem channelsKept_reset : ChannelsKept State.reset := fun c => by
  have e : State.reset.channels.get c = coldChannel := Tab.get_fill _ c
  rw [e]
  exact ⟨by decide, by decide, by decide, nofun, by decide, nofun, nofun⟩

/-- Settles O60. -/
theorem resetMeetsInvariants : Obligations.ResetMeetsInvariants :=
  ⟨rangesKept_reset, ⟨rfl, by decide, by decide, nofun⟩, ⟨by decide, List.Pairwise.nil, rfl⟩, tagsKept_reset,
    stockKept_reset,
    ⟨(returnStateKept_iff (by decide)).2 rfl,
      fun c e waits => absurd ((congrArg RateClass.waiting (Tab.get_fill coldRate c)).symm.trans waits) nofun,
      fun _ => coldRecords_reset []⟩,
    channelsKept_reset, noticesKept_reset, ⟨(returnStateKept_iff (by decide)).2 rfl, nofun⟩,
    fun p => (Tab.get_fill resetLink p).symm ▸ linkKept_reset⟩

/-! ### What the low-credit evaluation reads (R6) -/

/-- `t` has low-credit armed, the level of LOW_CREDIT and its place in the pending set as `s` has them. -/
structure LowCreditSame (s t : State) : Prop where
  armed : t.pool.lowCreditArmed = s.pool.lowCreditArmed
  levels : t.notices.levels = s.notices.levels
  pending : t.notices.pending.get srcLowCredit = s.notices.pending.get srcLowCredit

theorem LowCreditSame.refl (s : State) : LowCreditSame s s := ⟨rfl, rfl, rfl⟩

theorem LowCreditSame.trans {s t u : State} (h : LowCreditSame s t) (k : LowCreditSame t u) : LowCreditSame s u :=
  ⟨k.armed.trans h.armed, k.levels.trans h.levels, k.pending.trans h.pending⟩

theorem lowCredit_not_watchSource : srcLowCredit ∉ watchSources [] := by decide

theorem lowCredit_ne_nearFull : srcLowCredit ≠ srcNearFull := by decide

/-- No movement of the engine arms, or raises LOW_CREDIT. -/
theorem lowCredit_engineMove {s t : State} (m : EngineMove s t) : LowCreditSame s t := by
  cases m with
  | raise other => exact ⟨by simp, by simp, by rw [raiseSource_pending, if_neg (Ne.symm other)]⟩
  | @receive c ev _ => exact ⟨by simp, by simp, (CountStep.receiveEvent c ev s).raises _ lowCredit_not_watchSource⟩
  | reserve | cancel | refill | giveBack | decommission | receiveStamps | moveStamps | close =>
    exact ⟨by simp [openRecord, takeClaim, cancelRecord, releaseClaim, refillMovement, returnToGateway, receiveStamps,
        moveStamps, closeMovement],
      by simp [openRecord, takeClaim, cancelRecord, releaseClaim, refillMovement, returnToGateway, receiveStamps,
        moveStamps, closeMovement],
      evaluateNearFull_pending _ lowCredit_ne_nearFull⟩
  | acknowledge =>
    refine ⟨by simp, by simp, ?_⟩
    unfold Machine.acknowledge
    dsimp only
    split
    · rfl
    · exact evaluateNearFull_pending _ lowCredit_ne_nearFull
  | done => exact ⟨by simp, by simp, by simp⟩
  | _ => exact ⟨rfl, rfl, rfl⟩

theorem lowCredit_engineMoves {s t : State} (m : EngineMoves s t) : LowCreditSame s t := by
  induction m with
  | refl => exact .refl s
  | tail _ m ih => exact ih.trans (lowCredit_engineMove m)

/-- An engine keeps low-credit armed; but for an accepted TAKE_NOTICE or NOTICE_LEVEL it keeps LOW_CREDIT too. -/
theorem lowCredit_engineOf (c : Instr) (s : State) : (engineOf c s).state.pool.lowCreditArmed = s.pool.lowCreditArmed ∧
    (((∀ q, c ≠ .takeNotice q) ∧ (∀ q n l, c ≠ .noticeLevel q n l) ∨ (engineOf c s).code ≠ .ok) →
      LowCreditSame s (engineOf c s).state) := by
  by_cases take : ∃ q, c = .takeNotice q
  · obtain ⟨q, rfl⟩ := take
    simp only [engineOf, engineTakeNotice]
    split
    · exact ⟨rfl, fun _ => .refl s⟩
    · split
      · exact ⟨rfl, fun _ => .refl s⟩
      · split
        · exact ⟨rfl, fun _ => .refl s⟩
        · exact ⟨rfl, fun h => absurd rfl (h.resolve_left fun e => e.1 q rfl)⟩
  · by_cases level : ∃ q n l, c = .noticeLevel q n l
    · obtain ⟨q, n, l, rfl⟩ := level
      simp only [engineOf, engineNoticeLevel]
      split
      · exact ⟨rfl, fun _ => .refl s⟩
      · split
        · exact ⟨rfl, fun _ => .refl s⟩
        · split
          · exact ⟨rfl, fun _ => .refl s⟩
          · exact ⟨rfl, fun h => absurd rfl (h.resolve_left fun e => e.2 q n l rfl)⟩
    · have same := lowCredit_engineMoves
        (engineOf_moves (fun q e => take ⟨q, e⟩) (fun q n l e => level ⟨q, n, l, e⟩) s)
      exact ⟨same.armed, fun _ => same⟩

/-- The state whose low-credit evaluation concludes a request: the refusal recorded and the reply placed (R155, R173). -/
def replied (c : Instr) (q : Req) (a : Answer) : State :=
  modLink q.port (fun l => { l with reply := some ⟨a.code, q.number, resultFlags c q.port a.wrapped a.state, a.body⟩ })
    (recordRefusal q.port a.code (some q.number) a.state)

theorem conclude_replied (c : Instr) (q : Req) (a : Answer) : conclude c q a = evaluateLowCredit (replied c q a) := rfl

@[simp] theorem replied_pool (c : Instr) (q : Req) (a : Answer) : (replied c q a).pool = a.state.pool := by
  rcases recordRefusal_eq q.port a.code (some q.number) a.state with e | e <;> simp [replied, e]

theorem replied_lowCredit (c : Instr) (q : Req) (a : Answer) : LowCreditSame a.state (replied c q a) := by
  refine ⟨by simp, ?_, ?_⟩
  · rcases recordRefusal_eq q.port a.code (some q.number) a.state with e | e <;> simp [replied, e]
  · rcases recordRefusal_eq q.port a.code (some q.number) a.state with e | e
    · simp [replied, e]
    · simp only [replied, e, modLink_notices]
      exact Tab.get_set_ne _ _ (Ne.symm (srcPortFault_ne_lowCredit _))

theorem replied_reply (c : Instr) (q : Req) (a : Answer) :
    ((replied c q a).links.get q.port).reply = some ⟨a.code, q.number, resultFlags c q.port a.wrapped a.state, a.body⟩ := by
  simp [replied]

/-- What the evaluation leaves of low-credit armed (R6). -/
theorem evaluateLowCredit_armed (s : State) : (evaluateLowCredit s).pool.lowCreditArmed =
    if s.service.state = .blank then s.pool.lowCreditArmed else decide (s.pool.threshold ≤ s.pool.descending) := by
  unfold evaluateLowCredit
  split
  · rfl
  · split
    · rename_i low
      rw [decide_eq_false (Nat.not_le.2 low)]
      split
      · rw [raiseSource_pool]; rfl
      · rename_i armed; simpa using armed
    · rename_i credit
      exact (decide_eq_true (Nat.not_lt.1 credit)).symm

/-- What the evaluation leaves of LOW_CREDIT rests on what `LowCreditSame` names, on the service state and on the pool. -/
theorem lowCreditAfter_congr {s u : State} (same : LowCreditSame s u) : lowCreditAfter u =
    if u.service.state ≠ .blank ∧ u.pool.descending < u.pool.threshold ∧ s.pool.lowCreditArmed = true then
      afterRaise srcLowCredit (.lowCredit u.pool.descending u.pool.threshold) s
    else s.notices.pending.get srcLowCredit := by
  have level : sourceLevel u.notices srcLowCredit = sourceLevel s.notices srcLowCredit := by
    simp [sourceLevel, same.levels]
  simp only [lowCreditAfter, afterRaise, level, same.armed, same.pending]

/-- Settles O7: the evaluation is the last thing a request does, on what its engine left. -/
theorem lowCreditEvaluation : Obligations.LowCreditEvaluation := by
  intro c q s t header ready step
  rw [exec_ready header ready, conclude_replied] at step
  cases step
  obtain ⟨armed, kept⟩ := lowCredit_engineOf c (grant q.port s)
  generalize engineOf c (grant q.port s) = a at armed kept ⊢
  have low := evaluateLowCredit_armed (replied c q a)
  have alarm := evaluateLowCredit_lowCredit (replied c q a)
  have reply := replied_reply c q a
  have same := replied_lowCredit c q a
  have pool : (replied c q a).pool.lowCreditArmed = s.pool.lowCreditArmed := same.armed.trans armed
  generalize replied c q a = u at low alarm reply same pool ⊢
  obtain ⟨b, r, e, -⟩ := evaluateLowCredit_eq u
  have service : (evaluateLowCredit u).service = u.service := by rw [e]
  have money : (evaluateLowCredit u).pool.descending = u.pool.descending ∧
      (evaluateLowCredit u).pool.threshold = u.pool.threshold := by rw [e]; exact ⟨rfl, rfl⟩
  have links : (evaluateLowCredit u).links = u.links := by rw [e]
  rw [service, money.1, money.2]
  refine ⟨fun blank => ?_, fun present => ?_, fun h => ?_⟩
  · rw [low, if_pos blank, pool]
  · rw [low, if_neg present]
  · have refused : ¬AnsweredOk q (evaluateLowCredit u) → a.code ≠ .ok := fun h e => h ⟨_, by rw [links]; exact reply, e⟩
    rw [alarm, lowCreditAfter_congr ((kept (h.imp_right refused)).trans same)]
    rfl

end Sys2Proof.Safety
end

section
/-! From a request's turn to what its answer leaves: one lemma for each way to answer, one for each check that a request makes,
and the requests that read (chapters 1, 3, 4, 6 to 9, 11). -/

namespace Sys2Proof.Machine

open Sys2Proof.Config Sys2Proof.Safety

/-! ### The conclusion of a request -/

/-- Request `c` of `q`, at its turn in `s`, has been concluded in `t` with the engine's answer `a`. -/
structure Concluded (c : Instr) (q : Req) (s t : State) (a : Answer) : Prop where
  ready : Ready c q s
  result : t = conclude c q a

/-- A request at its turn is concluded with its engine's answer. -/
theorem exec_concluded {c : Instr} {q : Req} {s : State} (ready : Ready c q s) (header : requestHeader c = some q) :
    ∃ t, exec c s = .next t ∧ Concluded c q s t (engineOf c (grant q.port s)) :=
  ⟨_, exec_ready header ready, ready, rfl⟩

section Answers
variable {c : Instr} {q : Req} {s t u : State} {code : ReplyCode} {body : ReplyBody} {w : Bool} {changed : List Part}

theorem Concluded.serve {a : Answer} (h : Concluded c q s t a) : Machine.serve c q (fun _ => a) s = t :=
  (serve_ready h.ready).trans h.result.symm

theorem Concluded.plainRefused (h : Concluded c q s t (refuse (grant q.port s) code body))
    (plain : moneyCodes.contains (requestCode c) = false) : PlainRefused q s t code body :=
  h.serve ▸ serve_plainRefused h.ready plain rfl

theorem Concluded.moneyRefused (h : Concluded c q s t (refuse (grant q.port s) code body))
    (money : moneyCodes.contains (requestCode c) = true) : MoneyRefused q (flagHead c q.port) s t code body :=
  h.serve ▸ serve_moneyRefused h.ready money rfl

theorem Concluded.answeredOk (h : Concluded c q s t ⟨u, .ok, body, w⟩) : AnsweredOk q t :=
  h.serve ▸ serve_answeredOk (engine := fun _ => ⟨u, .ok, body, w⟩) h.ready rfl

/-- An accepted request whose reply is no money reply: what it leaves of the state that its engine left. -/
theorem Concluded.ok (h : Concluded c q s t ⟨u, .ok, body, w⟩) (plain : moneyCodes.contains (requestCode c) = false)
    (kept : EngineKept changed q (grant q.port s) u) : ∃ armed r, t = concluded c q ⟨u, .ok, body, w⟩ armed r ∧
      Answered changed q s t (okReply q body) := by
  obtain ⟨armed, r, e, answered⟩ := serve_ok (engine := fun _ => ⟨u, .ok, body, w⟩) h.ready plain rfl kept
  rw [h.serve] at e
  exact ⟨armed, r, e, e ▸ answered⟩

/-- An accepted money request: what it leaves of the state that its engine left. -/
theorem Concluded.okMoney (h : Concluded c q s t ⟨u, .ok, body, w⟩) (money : moneyCodes.contains (requestCode c) = true)
    (kept : EngineKept changed q (grant q.port s) u) : ∃ armed r, t = concluded c q ⟨u, .ok, body, w⟩ armed r ∧
      Answered changed q s t (okMoneyReply q (flagHead c q.port) w t body) := by
  obtain ⟨armed, r, e, answered⟩ := serve_okMoney (engine := fun _ => ⟨u, .ok, body, w⟩) h.ready money rfl kept
  rw [h.serve] at e
  exact ⟨armed, r, e, e ▸ answered⟩

/-- A request that reads. -/
theorem Concluded.read (h : Concluded c q s t (accept (grant q.port s) body))
    (plain : moneyCodes.contains (requestCode c) = false) : Answered [] q s t (okReply q body) :=
  (h.ok plain (.refl q _)).elim fun _ h => h.elim fun _ h => h.2

theorem Concluded.readMoney (h : Concluded c q s t (accept (grant q.port s) body))
    (money : moneyCodes.contains (requestCode c) = true) :
    Answered [] q s t (okMoneyReply q (flagHead c q.port) false t body) :=
  (h.okMoney money (.refl q _)).elim fun _ h => h.elim fun _ h => h.2

/-- A refusal of a class that no fault record keeps changes nothing at all (R155). -/
theorem Concluded.unrecorded (h : Concluded c q s t (refuse (grant q.port s) code body))
    (plain : moneyCodes.contains (requestCode c) = false) (kept : ∀ f, isRecorded f code = false) :
    Answered [] q s t ⟨code, q.number, ⟨false, false, false, false⟩, body⟩ := by
  obtain ⟨armed, r, e, answered⟩ :=
    serve_answered (engine := fun _ => refuse (grant q.port s) code body) h.ready rfl (kept _) (.refl q _)
  rw [h.serve] at e
  rw [e]
  rwa [resultFlags_clear plain] at answered

/-- A check that a request passes or is refused by, in a chain of checks. -/
theorem Concluded.plainCheck {p p' : Prop} [Decidable p] [Decidable p'] {a : Answer} {X : Prop}
    (h : Concluded c q s t (if p then refuse (grant q.port s) code body else a))
    (plain : moneyCodes.contains (requestCode c) = false) (check : p ↔ p') (rest : ¬p → Concluded c q s t a → X) :
    if p' then PlainRefused q s t code body else X := by
  split
  · rename_i hp
    rw [if_pos (check.2 hp)] at h
    exact h.plainRefused plain
  · rename_i hp
    rw [if_neg (mt check.1 hp)] at h
    exact rest (mt check.1 hp) h

/-- A check of a money request. -/
theorem Concluded.moneyCheck {p p' : Prop} [Decidable p] [Decidable p'] {a : Answer} {X : Prop} {hd : Option Head}
    (h : Concluded c q s t (if p then refuse (grant q.port s) code body else a))
    (money : moneyCodes.contains (requestCode c) = true) (head : flagHead c q.port = hd) (check : p ↔ p')
    (rest : ¬p → Concluded c q s t a → X) : if p' then MoneyRefused q hd s t code body else X := by
  split
  · rename_i hp
    rw [if_pos (check.2 hp)] at h
    exact head ▸ h.moneyRefused money
  · rename_i hp
    rw [if_neg (mt check.1 hp)] at h
    exact rest (mt check.1 hp) h

end Answers

/-- The answer of an engine, known from its checks. -/
theorem Concluded.of_eq {c : Instr} {q : Req} {s t : State} {a b : Answer} (h : Concluded c q s t a) (e : a = b) :
    Concluded c q s t b := e ▸ h

/-! ### The counts of the open records (R37, R39) -/

theorem openCount_eq (s : State) : openCount s = ((List.finRange 16).filter fun k => (s.slots.get k).isSome).length :=
  Tab.count_eq ..

theorem headOpenCount_eq (h : Head) (s : State) : headOpenCount h s =
    ((List.finRange 16).filter fun k => (s.slots.get k).any fun o => decide (o.head = h)).length := by
  refine (Tab.count_eq ..).trans (congrArg List.length (List.filter_congr fun k _ => ?_))
  cases s.slots.get k <;> rfl

/-! ### POOL_READ, HEAD_READ and SERVICE_READ (R11, R19, R165) -/

/-- Settles O8. -/
theorem poolReadReply : Obligations.PoolReadReply := by
  intro q s ready
  obtain ⟨t, e, h⟩ := exec_concluded ready rfl
  refine ⟨t, e, fun fits => ?_, fun fits => ?_⟩
  · exact (h.of_eq (by simp [engineOf, enginePoolRead, fits])).readMoney rfl
  · exact (h.of_eq (by simp [engineOf, enginePoolRead, fits])).moneyRefused rfl

theorem flagHead_headRead (q : Req) (h : Head) (p : Port) : flagHead (.headRead q h.val) p = some h := by
  simp [flagHead]

/-- Settles O9. -/
theorem headReadReply : Obligations.HeadReadReply := by
  refine ⟨fun q x s ready => ?_, fun q n s ready high => ?_⟩
  · obtain ⟨t, e, h⟩ := exec_concluded ready rfl
    refine ⟨t, e, fun fits => ?_, fun fits => ?_⟩
    · have read := (h.of_eq (b := accept _ _) (by simp [engineOf, engineHeadRead, fits]; rfl)).readMoney rfl
      rw [flagHead_headRead, headOpenCount_eq] at read
      exact read
    · have refused := (h.of_eq (b := refuse _ .format .none) (by simp [engineOf, engineHeadRead, fits])).moneyRefused rfl
      rwa [flagHead_headRead] at refused
  · obtain ⟨t, e, h⟩ := exec_concluded ready rfl
    have unnamed : index 6 n = none := index_eq_none.2 high
    exact ⟨t, _, e, (h.of_eq (b := refuse _ .format .none) (by simp [engineOf, engineHeadRead, unnamed])).moneyRefused rfl⟩

/-- Settles O10. -/
theorem serviceReadReply : Obligations.ServiceReadReply := by
  intro q s ready fits
  obtain ⟨t, e, h⟩ := exec_concluded ready rfl
  have read := (h.of_eq (b := accept _ (.service s.service (standingAlarms s.notices))) (by
    simp only [engineOf, engineServiceRead, extraBody, fits, standingAlarms_grant]; rfl)).read rfl
  exact ⟨t, _, e, read, standingAlarms_list _⟩

/-! ### LIST_OPEN (R56) -/

/-- The open records that LIST_OPEN lists. -/
theorem openItems_eq (wanted : Option Head) (s : State) : openItems wanted s = (List.finRange 16).filterMap fun k =>
    (s.slots.get k).bind fun o => if wanted = none ∨ wanted = some o.head then some (openItem k o) else none := by
  unfold openItems
  exact congrArg (fun f => List.filterMap f _) (funext fun k => by cases s.slots.get k <;> rfl)

/-- Settles O11. -/
theorem listOpenReply : Obligations.ListOpenReply := by
  refine ⟨fun s => ⟨openCount_eq s, fun h => headOpenCount_eq h s⟩, fun q head s ready bad => ?refused,
    fun q head wanted s ready fits named => ?listed⟩
  case refused =>
    obtain ⟨t, e, h⟩ := exec_concluded ready rfl
    refine ⟨t, e, (h.of_eq (b := refuse _ .format .none) ?_).plainRefused rfl⟩
    simp only [engineOf, engineListOpen]
    cases port : portHead q.port with
    | some x =>
      have shape : (!q.fits || head.isSome) = true := by
        rcases bad with fits | ⟨-, body⟩ | ⟨n, rfl, -⟩
        · simp [fits]
        · simp [Option.isSome_iff_ne_none.2 body]
        · simp
      simp only [shape, if_true]
    | none =>
      rcases bad with fits | ⟨headPort, -⟩ | ⟨n, rfl, high⟩
      · simp [fits]
      · exact absurd port headPort
      · have unnamed : index 6 n = none := index_eq_none.2 high
        simp [unnamed]
  case listed =>
    obtain ⟨t, e, h⟩ := exec_concluded ready rfl
    have read := (h.of_eq (b := accept (grant q.port s) (.openList (openItems wanted (grant q.port s)))) ?_).read rfl
    · rw [openItems_eq] at read
      exact ⟨t, e, read⟩
    · simp only [engineOf, engineListOpen]
      rcases named with ⟨rfl, rfl⟩ | ⟨port, x, rfl, rfl⟩
      · cases port : portHead q.port <;> simp [fits]
      · simp [port, fits]

/-! ### RATE_READ, STOCK_READ and WATCH_READ (R72, R102, R142) -/

/-- Settles O13. -/
theorem tableReadReplies : Obligations.TableReadReplies := by
  refine ⟨fun q c s ready fits => ?_, fun q k s ready fits => ?_, fun q c s ready fits => ?_, fun q c n s bad ready => ?_⟩
  · obtain ⟨t, e, h⟩ := exec_concluded ready rfl
    exact ⟨t, e, (h.of_eq (b := accept _ _) (by simp [engineOf, engineRateRead, fits])).read rfl⟩
  · obtain ⟨t, e, h⟩ := exec_concluded ready rfl
    have read := (h.of_eq (b := accept _ _) (by simp [engineOf, engineStockRead, fits]; rfl)).read rfl
    refine ⟨t, _, e, read, fun unused => ?_, fun d used => ?_⟩
    · rw [unused]; exact Nat.mul_zero _
    · rcases used with used | used <;> rw [used] <;> rfl
  · obtain ⟨t, e, h⟩ := exec_concluded ready rfl
    exact ⟨t, e, (h.of_eq (b := accept _ _) (by simp [engineOf, engineWatchRead, fits]; rfl)).read rfl⟩
  · rcases bad with ⟨rfl, bad⟩ | ⟨rfl, bad⟩ | ⟨rfl, bad⟩
    all_goals
      obtain ⟨t, e, h⟩ := exec_concluded ready rfl
      refine ⟨t, e, (h.of_eq (b := refuse _ .format .none) ?_).plainRefused rfl⟩
      simp only [engineOf, engineRateRead, engineStockRead, engineWatchRead]
      rcases bad with fits | high
    · split <;> simp [fits]
    · rw [index_eq_none.2 high]
    · split <;> simp [fits]
    · rw [index_eq_none.2 high]
    · split <;> simp [fits]
    · rw [index_eq_none.2 high]

/-! ### JOURNAL_READ, REFILL_LOG_READ and DAY_LOG_READ (R110, R116, R126) -/

/-- The pending entries that the next close applies on its own day, counted class by class. -/
theorem dueNextClose_eq (s : State) : dueNextClose s = ((List.finRange 64).filter fun c =>
    (s.rates.get c).waiting.any fun e => decide (e.effective = s.pool.day + 1)).length := by
  refine (Tab.count_eq ..).trans (congrArg List.length (List.filter_congr fun c _ => ?_))
  cases (s.rates.get c).waiting <;> rfl

/-- Settles O14. -/
theorem logReadReplies : Obligations.LogReadReplies := by
  refine ⟨fun q offset count s ready fits low => ?_, fun q offset count s ready fits low => ?_,
    fun q n s ready fits low => ?_, fun q s ready fits => ?_, fun q c offset count s bad ready => ?_, fun q p s ready bad => ?_⟩
  · obtain ⟨t, e, h⟩ := exec_concluded ready rfl
    exact ⟨t, e, (h.of_eq (b := accept _ _) (by
      simp only [engineOf, engineJournalRead]
      rw [if_neg (by simp [fits]; omega)]; rfl)).read rfl⟩
  · obtain ⟨t, e, h⟩ := exec_concluded ready rfl
    exact ⟨t, e, (h.of_eq (b := accept _ _) (by
      simp only [engineOf, engineRefillLogRead]
      rw [if_neg (by simp [fits]; omega)]; rfl)).read rfl⟩
  · obtain ⟨t, e, h⟩ := exec_concluded ready rfl
    exact ⟨t, e, (h.of_eq (b := accept _ _) (by
      simp only [engineOf, engineDayLogRead, fits]
      rw [if_neg (by decide), if_neg (by omega)]; rfl)).read rfl⟩
  · obtain ⟨t, e, h⟩ := exec_concluded ready rfl
    have read := (h.of_eq (b := accept _ _) (by simp [engineOf, engineDayLogRead, fits]; rfl)).read rfl
    rw [Tab.items_eq, List.map_map] at read
    exact ⟨t, _, e, read, dueNextClose_eq _⟩
  · rcases bad with ⟨rfl, bad⟩ | ⟨rfl, bad⟩
    · obtain ⟨t, e, h⟩ := exec_concluded ready rfl
      exact ⟨t, e, (h.of_eq (b := refuse _ .format .none) (if_pos bad)).plainRefused rfl⟩
    · obtain ⟨t, e, h⟩ := exec_concluded ready rfl
      exact ⟨t, e, (h.of_eq (b := refuse _ .format .none) (if_pos bad)).plainRefused rfl⟩
  · obtain ⟨t, e, h⟩ := exec_concluded ready rfl
    refine ⟨t, _, e, (h.of_eq (b := refuse _ .format .none) ?_).plainRefused rfl⟩
    simp only [engineOf, engineDayLogRead]
    rcases bad with fits | rfl | ⟨n, rfl, high⟩
    · simp [fits]
    · cases q.fits <;> rfl
    · simp [high]

/-! ### The port fault record (R156) -/

/-- A request that writes its port's fault record alone. -/
theorem modLink_fault_kept (q : Req) (f : FaultRecord → FaultRecord) (g : State) :
    EngineKept [.fault] q g (modLink q.port (fun l => { l with fault := f l.fault }) g) := by
  refine ⟨?_, rfl, rfl, rfl, rfl, fun part hp => ?_⟩
  · simp [Tab.modify]
  · cases part with
    | fault => simp at hp
    | heads | inhibits | stack | nesting | holds => exact fun _ => rfl
    | raises => exact fun _ _ => rfl
    | _ => rfl

/-- What a choice makes of an enable (R156). -/
theorem enableOr_spec (x : EnableChoice) (old : Bool) : (x = .leave → enableOr old x = old) ∧
    (x = .enable → enableOr old x = true) ∧ (x = .disable → enableOr old x = false) := by
  cases x <;> simp [enableOr]

/-- Settles O15. -/
theorem faultRequests : Obligations.FaultRequests := by
  refine ⟨fun q s ready fits => ?read, fun q s ready fits => ?clear, fun q a b c d s ready fits ha hb hc hd => ?enable,
    fun q a b c d s ready bad => ?refused⟩
  case read =>
    obtain ⟨t, e, h⟩ := exec_concluded ready rfl
    have read := (h.of_eq (b := accept _ _) (by simp [engineOf, engineFaultRead, extraBody, fits]; rfl)).read rfl
    exact ⟨t, e, by simpa using read⟩
  case clear =>
    obtain ⟨t, e, h⟩ := exec_concluded ready rfl
    obtain ⟨armed, r, rfl, answered⟩ := (h.of_eq (b := accept _ (.faultRecord (s.links.get q.port).fault))
      (by simp [engineOf, engineClearFault, extraBody, fits])).ok rfl (modLink_fault_kept q clearedFault _)
    exact ⟨_, e, answered, by simp [concluded, clearedFault]⟩
  case enable =>
    obtain ⟨t, e, h⟩ := exec_concluded ready rfl
    obtain ⟨armed, r, et, answered⟩ := (h.of_eq (b := accept _ .none)
      (by simp [engineOf, engineFaultEnable, enableBad, fits, ha, hb, hc, hd])).ok rfl
      (modLink_fault_kept q (enabledFault a b c d) _)
    have fault : (t.links.get q.port).fault = enabledFault a b c d (s.links.get q.port).fault := by
      rw [et]; simp [concluded]
    refine ⟨t, e, answered, ?_⟩
    dsimp only
    rw [fault]
    exact ⟨rfl, rfl, rfl, enableOr_spec a _, enableOr_spec b _, enableOr_spec c _, enableOr_spec d _⟩
  case refused =>
    obtain ⟨t, e, h⟩ := exec_concluded ready rfl
    refine ⟨t, e, (h.of_eq (b := refuse _ .format .none) (if_pos ?_)).plainRefused rfl⟩
    rcases bad with fits | bad
    · simp [fits]
    · simp only [List.mem_cons, List.not_mem_nil, or_false] at bad
      rcases bad with rfl | rfl | rfl | rfl <;> simp [enableBad]

end Sys2Proof.Machine
end

section
/-! What each update of the state leaves of the parts that an answer keeps: one lemma per update, composed by `trans`. -/

namespace Sys2Proof.Machine

open Sys2Proof.Config Sys2Proof.Safety

section Kept
variable {q : Req} {g t u : State} {changed others : List Part}

theorem EngineKept.trans (h : EngineKept changed q g u) (k : EngineKept others q u t) : EngineKept (changed ++ others) q g t where
  links := by
    rw [k.links, h.links]
    simp [Tab.modify]
  served := k.served.trans h.served
  search := k.search.trans h.search
  running := k.running.trans h.running
  queue := k.queue.trans h.queue
  kept := fun part hp => by
    obtain ⟨hp, kp⟩ := not_or.1 (mt List.mem_append.2 hp)
    have a := h.kept part hp
    have b := k.kept part kp
    cases part with
    | pool => exact (show t.pool = _ from b).trans (by rw [show u.pool = _ from a])
    | heads => exact fun x => by rw [← a x, ← b x]
    | inhibits | stack | nesting | holds => exact fun x => (b x).trans (a x)
    | raises => exact fun n hn => (b n hn).trans (a n hn)
    | _ => exact Eq.trans b a

theorem EngineKept.mono (h : EngineKept changed q g t) (le : changed ⊆ others) : EngineKept others q g t :=
  ⟨h.links, h.served, h.search, h.running, h.queue, fun part hp => h.kept part fun hc => hp (le hc)⟩

theorem links_same (q : Req) (g : State) :
    g.links = g.links.modify q.port fun l => { l with fault := (g.links.get q.port).fault } :=
  (Tab.set_get_self ..).symm

theorem EngineKept.modPool (f : Pool → Pool) : EngineKept [.pool] q g (modPool f g) := by
  refine ⟨links_same q g, rfl, rfl, rfl, rfl, fun part hp => ?_⟩
  cases part with
  | pool => simp at hp
  | heads | inhibits | stack | nesting | holds => exact fun _ => rfl
  | raises => exact fun _ _ => rfl
  | _ => rfl

theorem EngineKept.modHead {x : Head} {f : HeadRecord → HeadRecord} (holders : ∀ r, (f r).inhibitHolders = r.inhibitHolders) :
    EngineKept [.heads] q g (modHead x f g) := by
  refine ⟨links_same q g, rfl, rfl, rfl, rfl, fun part hp => ?_⟩
  cases part with
  | heads => simp at hp
  | inhibits =>
    intro y
    rw [modHead_heads, Tab.get_modify]
    split
    · exact holders _
    · rfl
  | stack | nesting | holds => exact fun _ => rfl
  | raises => exact fun _ _ => rfl
  | _ => rfl

theorem EngineKept.setSlot (k : SlotNo) (o : Option OpenImprint) : EngineKept [.slots] q g (setSlot k o g) := by
  refine ⟨links_same q g, rfl, rfl, rfl, rfl, fun part hp => ?_⟩
  cases part with
  | slots => simp at hp
  | heads | inhibits | stack | nesting | holds => exact fun _ => rfl
  | raises => exact fun _ _ => rfl
  | _ => rfl

theorem EngineKept.modRate (c : ClassNo) (f : RateClass → RateClass) : EngineKept [.rates] q g (modRate c f g) := by
  refine ⟨links_same q g, rfl, rfl, rfl, rfl, fun part hp => ?_⟩
  cases part with
  | rates => simp at hp
  | heads | inhibits | stack | nesting | holds => exact fun _ => rfl
  | raises => exact fun _ _ => rfl
  | _ => rfl

theorem EngineKept.modStock (e : EntryNo) (f : StockEntry → StockEntry) : EngineKept [.stock] q g (modStock e f g) := by
  refine ⟨links_same q g, rfl, rfl, rfl, rfl, fun part hp => ?_⟩
  cases part with
  | stock => simp at hp
  | heads | inhibits | stack | nesting | holds => exact fun _ => rfl
  | raises => exact fun _ _ => rfl
  | _ => rfl

theorem EngineKept.modStockDay (f : StockDay → StockDay) : EngineKept [.stockDay] q g (modStockDay f g) := by
  refine ⟨links_same q g, rfl, rfl, rfl, rfl, fun part hp => ?_⟩
  cases part with
  | stockDay => simp at hp
  | heads | inhibits | stack | nesting | holds => exact fun _ => rfl
  | raises => exact fun _ _ => rfl
  | _ => rfl

theorem EngineKept.modAudit (f : Audit → Audit) : EngineKept [.audit] q g (modAudit f g) := by
  refine ⟨links_same q g, rfl, rfl, rfl, rfl, fun part hp => ?_⟩
  cases part with
  | audit => simp at hp
  | heads | inhibits | stack | nesting | holds => exact fun _ => rfl
  | raises => exact fun _ _ => rfl
  | _ => rfl

theorem EngineKept.setChannel (c : ChannelNo) (ch : Channel) : EngineKept [.channels] q g (setChannel c ch g) := by
  refine ⟨links_same q g, rfl, rfl, rfl, rfl, fun part hp => ?_⟩
  cases part with
  | channels => simp at hp
  | heads | inhibits | stack | nesting | holds => exact fun _ => rfl
  | raises => exact fun _ _ => rfl
  | _ => rfl

theorem EngineKept.modService (f : Service → Service) : EngineKept [.service] q g (modService f g) := by
  refine ⟨links_same q g, rfl, rfl, rfl, rfl, fun part hp => ?_⟩
  cases part with
  | service => simp at hp
  | heads | inhibits | stack | nesting | holds => exact fun _ => rfl
  | raises => exact fun _ _ => rfl
  | _ => rfl

/-- A change of a port's stack, hold count or option: `changed` names what the change does not keep. -/
theorem EngineKept.modNoticePort {p : Port} {f : NoticePort → NoticePort}
    (stack : .stack ∉ changed → ∀ x, (f x).stack = x.stack) (nesting : .nesting ∉ changed → ∀ x, (f x).noNesting = x.noNesting)
    (holds : .holds ∉ changed → ∀ x, (f x).holdCount = x.holdCount) : EngineKept changed q g (modNoticePort p f g) := by
  refine ⟨links_same q g, rfl, rfl, rfl, rfl, fun part hp => ?_⟩
  cases part with
  | heads | inhibits => exact fun _ => rfl
  | stack =>
    intro p'
    rw [modNoticePort_notices, Tab.get_modify]
    split
    · exact stack hp _
    · rfl
  | nesting =>
    intro p'
    rw [modNoticePort_notices, Tab.get_modify]
    split
    · exact nesting hp _
    · rfl
  | holds =>
    intro p'
    rw [modNoticePort_notices, Tab.get_modify]
    split
    · exact holds hp _
    · rfl
  | raises => exact fun _ _ => rfl
  | _ => rfl

theorem EngineKept.raise (n : SourceNo) (d : Detail) : EngineKept [.raises] q g (raiseSource n d g) := by
  rw [raiseSource_eq]
  refine ⟨links_same q g, rfl, rfl, rfl, rfl, fun part hp => ?_⟩
  cases part with
  | raises => simp at hp
  | heads | inhibits | stack | nesting | holds => exact fun _ => rfl
  | _ => rfl

theorem EngineKept.evaluateNearFull : EngineKept [.audit, .raises] q g (evaluateNearFull g) := by
  obtain ⟨armed, r, e, -⟩ := evaluateNearFull_eq g
  rw [e]
  refine ⟨links_same q g, rfl, rfl, rfl, rfl, fun part hp => ?_⟩
  cases part with
  | audit | raises => simp at hp
  | heads | inhibits | stack | nesting | holds => exact fun _ => rfl
  | _ => rfl

theorem EngineKept.writeFree (kind : EntryKind) (p : Port) (i : EntryItems) :
    EngineKept [.pool, .audit, .raises] q g (writeFree kind p i g) :=
  (((EngineKept.modAudit _).trans (EngineKept.modPool _)).trans EngineKept.evaluateNearFull).mono (by decide)

theorem EngineKept.countEvents (ev : SourceEvent) (n : Nat) :
    EngineKept [.inhibits, .channels, .raises] q g (countEvents ev n g) := by
  obtain ⟨e, heads, -⟩ := countEvents_spec ev n g
  refine ⟨by rw [countEvents_links]; exact links_same q g, by simp, by simp, by simp, by simp, fun part hp => ?_⟩
  cases part with
  | inhibits | channels | raises => simp at hp
  | heads => exact heads
  | stack | nesting | holds => exact fun _ => by rw [e]
  | levels => exact congrArg (fun u => u.notices.levels) e
  | pool => exact (countEvents_pool ev n g).trans (by simp)
  | fault => exact congrArg (fun l => (Tab.get l q.port).fault) (countEvents_links ev n g)
  | slots => exact countEvents_slots ev n g
  | rates => exact countEvents_rates ev n g
  | stock => exact countEvents_stock ev n g
  | stockDay => exact countEvents_stockDay ev n g
  | audit => exact countEvents_audit ev n g
  | service => exact countEvents_service ev n g

end Kept

/-! ### What the answer adds (R6) -/

section Fields
variable {c : Instr} {q : Req} {a : Answer} {armed : Bool} {r : Option Raised}

@[simp] theorem concluded_pool : (concluded c q a armed r).pool = { a.state.pool with lowCreditArmed := armed } := rfl
@[simp] theorem concluded_heads : (concluded c q a armed r).heads = a.state.heads := rfl
@[simp] theorem concluded_slots : (concluded c q a armed r).slots = a.state.slots := rfl
@[simp] theorem concluded_rates : (concluded c q a armed r).rates = a.state.rates := rfl
@[simp] theorem concluded_stock : (concluded c q a armed r).stock = a.state.stock := rfl
@[simp] theorem concluded_stockDay : (concluded c q a armed r).stockDay = a.state.stockDay := rfl
@[simp] theorem concluded_audit : (concluded c q a armed r).audit = a.state.audit := rfl
@[simp] theorem concluded_channels : (concluded c q a armed r).channels = a.state.channels := rfl
@[simp] theorem concluded_service : (concluded c q a armed r).service = a.state.service := rfl
@[simp] theorem concluded_levels : (concluded c q a armed r).notices.levels = a.state.notices.levels := rfl
@[simp] theorem concluded_ports : (concluded c q a armed r).notices.ports = a.state.notices.ports := rfl

/-- The answer itself raises LOW_CREDIT alone. -/
theorem concluded_pending {n : SourceNo} (hn : n ≠ srcLowCredit) :
    (concluded c q a armed r).notices.pending.get n = a.state.notices.pending.get n := Tab.get_set_ne _ _ hn

end Fields

end Sys2Proof.Machine
end

section
/-! The configuration of the pool, the heads, the service state and the rate table (R12, R18, R64 to R68, R160, R161): the check
order of each request and what an accepted one writes. -/

namespace Sys2Proof.Machine

open Sys2Proof.Config Sys2Proof.Safety

/-! ### The checks -/

theorem not_working_iff (v : ServiceState) : (!isWorking v) = true ↔ ¬(v = .inService ∨ v = .halted) := by
  rw [← isWorking_iff]; simp

/-- What makes an item fail its check. -/
theorem choiceBad_iff {α : Type} (bad : α → Bool) (c : Choice α) :
    choiceBad bad c = true ↔ c = .unrecognised ∨ ∃ v, c = .value v ∧ bad v = true := by
  cases c <;> simp [choiceBad]

theorem capBad_iff (c : CapChoice) :
    capBad c = true ↔ c = .unrecognised ∨ ∃ v, c = .value v ∧ (v = 0 ∨ 9999999999 < v) := by
  have bound : maxPool = 9999999999 := rfl
  cases c <;> simp [capBad, bound]

/-- What an item leaves (R12, R18). -/
theorem choiceOr_spec {α : Type} (old : α) (c : Choice α) :
    (c = .leave → choiceOr old c = old) ∧ ∀ v, c = .value v → choiceOr old c = v := by
  cases c <;> simp [choiceOr]

/-! ### SET_LIMITS (R12) -/

/-- The format checks of a SET_LIMITS (R12). -/
def LimitsBad (q : Req) (c t f : Choice Nat) : Prop :=
  q.fits = false ∨ c = .unrecognised ∨ t = .unrecognised ∨ f = .unrecognised ∨
    (∃ v, c = .value v ∧ (v = 0 ∨ 9999999999 < v)) ∨ (∃ v, t = .value v ∧ 9999999999 < v) ∨
    ∃ v, f = .value v ∧ 9999999999 < v

theorem limitsBad_iff (q : Req) (c t f : Choice Nat) :
    (!q.fits || choiceBad (fun c => decide (c = 0) || decide (maxPool < c)) c || choiceBad (fun t => decide (maxPool < t)) t ||
      choiceBad (fun f => decide (maxPool < f)) f) = true ↔ LimitsBad q c t f := by
  have bound : maxPool = 9999999999 := rfl
  simp only [LimitsBad, Bool.or_eq_true, choiceBad_iff, decide_eq_true_eq, Bool.not_eq_true', bound]
  generalize (∃ v, c = .value v ∧ (v = 0 ∨ 9999999999 < v)) = ceiling
  generalize (∃ v, t = .value v ∧ 9999999999 < v) = threshold
  generalize (∃ v, f = .value v ∧ 9999999999 < v) = floor
  tauto

theorem ceilingTooLow_iff (s : State) (c : Choice Nat) :
    ceilingTooLow s c = true ↔ ∃ v, c = .value v ∧ v < s.pool.descending + s.pool.reservedTotal := by
  cases c <;> simp [ceilingTooLow]

/-- The answer to a SET_LIMITS that passes its checks. -/
theorem engineSetLimits_accepts {q : Req} {c t f : Choice Nat} {g : State} (working : isWorking g.service.state = true)
    (format : ¬LimitsBad q c t f) (room : ¬∃ v, c = .value v ∧ v < g.pool.descending + g.pool.reservedTotal) :
    engineSetLimits q c t f g = accept (modPool (setLimits c t f) g) (.limits (setLimits c t f g.pool).ceiling
      (setLimits c t f g.pool).threshold (setLimits c t f g.pool).floor) := by
  unfold engineSetLimits
  rw [if_neg (by simp [working]), if_neg (mt (limitsBad_iff q c t f).1 format), if_neg (mt (ceilingTooLow_iff g c).1 room)]
  rfl

/-- What SET_LIMITS leaves of the floor. -/
theorem setLimits_floor (c t f : Choice Nat) (p : Pool) : (f = .leave → (setLimits c t f p).floor = p.floor) ∧
    ∀ v, f = .value v → (setLimits c t f p).floor = some v := by
  cases f <;> simp [setLimits]

/-- Settles O16. -/
theorem setLimitsApplied : Obligations.SetLimitsApplied := by
  refine ⟨fun q c t f s ready => ?order, fun q c t f s ready taken fits hc hc' ht ht' hf hf' => ?applied⟩
  case order =>
    obtain ⟨u, e, h⟩ := exec_concluded ready rfl
    refine ⟨u, e, fun idle => ?_, fun taken bad => ?_, fun taken good low => ?_, fun taken good high => ?_⟩
    · exact (h.of_eq (if_pos ((not_working_iff _).2 idle))).moneyRefused rfl
    · have working : ¬(!isWorking s.service.state) = true := fun idle => (not_working_iff _).1 idle taken
      exact (h.of_eq ((if_neg working).trans (if_pos ((limitsBad_iff q c t f).2 bad)))).moneyRefused rfl
    · have working : ¬(!isWorking s.service.state) = true := fun idle => (not_working_iff _).1 idle taken
      exact (h.of_eq ((if_neg working).trans ((if_neg (mt (limitsBad_iff q c t f).1 good)).trans
        (if_pos ((ceilingTooLow_iff _ c).2 low))))).moneyRefused rfl
    · exact (h.of_eq (engineSetLimits_accepts ((isWorking_iff _).2 taken) good high)).answeredOk
  case applied =>
    obtain ⟨u, e, h⟩ := exec_concluded ready rfl
    have good : ¬LimitsBad q c t f := by
      rintro (h | h | h | h | ⟨v, e, h⟩ | ⟨v, e, h⟩ | ⟨v, e, h⟩)
      · simp [fits] at h
      · exact hc' h
      · exact ht' h
      · exact hf' h
      · have := hc v e; omega
      · have := ht v e; omega
      · have := hf v e; omega
    have high : ¬∃ v, c = .value v ∧ v < s.pool.descending + s.pool.reservedTotal := fun ⟨v, e, low⟩ =>
      Nat.not_lt.2 (hc v e).2.2 low
    obtain ⟨armed, r, eu, answered⟩ := (h.of_eq (engineSetLimits_accepts ((isWorking_iff _).2 taken) good high)).okMoney rfl
      (.modPool _)
    have pool : u.pool = { setLimits c t f s.pool with lowCreditArmed := armed } := by rw [eu]; rfl
    refine ⟨u, e, ?_, ?_⟩
    · rw [pool]; exact answered
    · rw [pool]
      exact ⟨rfl, (choiceOr_spec _ c).1, (choiceOr_spec _ c).2, (choiceOr_spec _ t).1, (choiceOr_spec _ t).2,
        (setLimits_floor c t f _).1, (setLimits_floor c t f _).2⟩

/-! ### SET_HEAD (R18) -/

/-- The format checks of a SET_HEAD behind the head's number (R18). -/
def HeadBad (q : Req) (enabled : Choice Bool) (hold : Choice Nat) (cap : CapChoice) : Prop :=
  q.fits = false ∨ enabled = .unrecognised ∨ hold = .unrecognised ∨ cap = .unrecognised ∨
    ∃ v, cap = .value v ∧ (v = 0 ∨ 9999999999 < v)

theorem headFormat_iff (q : Req) (enabled : Choice Bool) (hold : Choice Nat) (cap : CapChoice) :
    (!q.fits || choiceBad (fun _ => false) enabled || choiceBad (fun _ => false) hold || capBad cap) = true ↔
    HeadBad q enabled hold cap := by
  simp only [HeadBad, Bool.or_eq_true, choiceBad_iff, capBad_iff, Bool.not_eq_true', Bool.false_eq_true, and_false, exists_false,
    or_false, or_assoc]

/-- What SET_HEAD leaves of the hold time and of the daily cap. -/
theorem setHeadItems_spec (enabled : Choice Bool) (hold : Choice Nat) (cap : CapChoice) (r : HeadRecord) :
    ((hold = .leave → (setHeadItems enabled hold cap r).holdTime = r.holdTime) ∧
      ∀ v, hold = .value v → (setHeadItems enabled hold cap r).holdTime = if v < 5 then 5 else if 600 < v then 600 else v) ∧
    (cap = .leave → (setHeadItems enabled hold cap r).dailyCap = r.dailyCap) ∧
    (cap = .absent → (setHeadItems enabled hold cap r).dailyCap = none) ∧
    ∀ v, cap = .value v → (setHeadItems enabled hold cap r).dailyCap = some v := by
  refine ⟨⟨fun e => by subst e; rfl, fun v e => ?_⟩, fun e => by subst e; rfl, fun e => by subst e; rfl,
    fun v e => by subst e; rfl⟩
  subst e
  simp only [setHeadItems, clampHold]
  split
  · omega
  · split <;> omega

/-- The answer to a SET_HEAD that passes its checks. -/
theorem engineSetHead_accepts {q : Req} {x : Head} {enabled : Choice Bool} {hold : Choice Nat} {cap : CapChoice} {g : State}
    (working : isWorking g.service.state = true)
    (format : ¬HeadBad q enabled hold cap) :
    engineSetHead q x.val enabled hold cap g = accept (modHead x (setHeadItems enabled hold cap) g)
      (.headConfig (setHeadItems enabled hold cap (g.heads.get x)).enabled
        (setHeadItems enabled hold cap (g.heads.get x)).holdTime (setHeadItems enabled hold cap (g.heads.get x)).dailyCap) := by
  unfold engineSetHead
  rw [if_neg (by simp [working]), index_val]
  dsimp only
  rw [if_neg (mt (headFormat_iff q enabled hold cap).1 format), modHead_heads, Tab.get_modify_self]

/-- Settles O17. -/
theorem setHeadApplied : Obligations.SetHeadApplied := by
  refine ⟨fun q head enabled hold cap s ready => ?order, fun q x enabled hold cap s ready taken fits he hh hc range => ?applied⟩
  case order =>
    obtain ⟨t, e, h⟩ := exec_concluded ready rfl
    refine ⟨t, e, fun idle => (h.of_eq (if_pos ((not_working_iff _).2 idle))).plainRefused rfl, fun taken bad => ?_,
      fun taken good => ?_⟩
    · have working : ¬(!isWorking s.service.state) = true := fun idle => (not_working_iff _).1 idle taken
      refine (h.of_eq ((if_neg working).trans ?_)).plainRefused rfl
      cases named : index 6 head with
      | none => rfl
      | some x =>
        have low : ¬5 < head := by have := index_eq_some.1 named; omega
        exact if_pos ((headFormat_iff q enabled hold cap).2 (bad.imp_right fun h => h.resolve_left low))
    · obtain ⟨x, rfl⟩ : ∃ x : Head, x.val = head := ⟨⟨head, by omega⟩, rfl⟩
      exact (h.of_eq (engineSetHead_accepts ((isWorking_iff _).2 taken) fun bad =>
        good (bad.imp_right .inr))).answeredOk
  case applied =>
    obtain ⟨t, e, h⟩ := exec_concluded ready rfl
    have good : ¬HeadBad q enabled hold cap := by
      rintro (h | h | h | h | ⟨v, e, h⟩)
      · simp [fits] at h
      · exact he h
      · exact hh h
      · exact hc h
      · have := range v e; omega
    obtain ⟨armed, r, et, answered⟩ := (h.of_eq (engineSetHead_accepts ((isWorking_iff _).2 taken) good)).ok rfl
      (.modHead fun _ => rfl)
    have heads : t.heads = s.heads.modify x (setHeadItems enabled hold cap) := by rw [et]; rfl
    have new : t.heads.get x = setHeadItems enabled hold cap (s.heads.get x) := by rw [heads, Tab.get_modify_self]
    obtain ⟨times, caps⟩ := setHeadItems_spec enabled hold cap (s.heads.get x)
    refine ⟨t, e, ?_⟩
    dsimp only
    rw [new]
    exact ⟨answered, fun y hy => by rw [heads, Tab.get_modify_ne _ _ hy], rfl, (choiceOr_spec _ enabled).1,
      (choiceOr_spec _ enabled).2, times.1, times.2, caps⟩

/-! ### COMMISSION and UNLOCK (R160, R161) -/

/-- No hard alarm pending or in service and no tamper level stand in the way. -/
theorem not_conditionStands {s : State} (tamper : s.service.tamperActive = false)
    (alarms : ∀ n : SourceNo, n = 32 ∨ n = 33 ∨ n = 34 → ¬AlarmStands s.notices n) : ¬ConditionStands s := by
  rintro (h | ⟨n, hn, stands⟩)
  · simp [tamper] at h
  · exact alarms n hn stands

/-- The grant leaves the tamper level and the standing alarms. -/
theorem conditionStands_grant (p : Port) (s : State) : conditionStands (grant p s) = conditionStands s := by
  simp only [conditionStands, standingAlarms_grant, grant_service]

theorem conditionBody_grant (p : Port) (s : State) : conditionBody (grant p s) = conditionBody s := by
  simp only [conditionBody, standingAlarms_grant, grant_service]

/-- The last check of COMMISSION and of UNLOCK, with what its refusal reports (R160). -/
theorem Concluded.conditionCheck {c : Instr} {q : Req} {s t : State} {a : Answer} {X : Prop}
    [Decidable (ConditionStands s)]
    (h : Concluded c q s t (if conditionStands (grant q.port s) then
      refuse (grant q.port s) .condition (conditionBody (grant q.port s)) else a))
    (plain : moneyCodes.contains (requestCode c) = false) (rest : Concluded c q s t a → X) :
    if ConditionStands s then ∃ alarms, StandingList s.notices alarms ∧
      PlainRefused q s t .condition (.condition s.service.tamperActive alarms) else X := by
  rw [conditionStands_grant, conditionBody_grant] at h
  split
  · rename_i stands
    rw [if_pos ((conditionStands_iff s).2 stands)] at h
    exact ⟨_, standingAlarms_list s.notices, h.plainRefused plain⟩
  · rename_i clear
    rw [if_neg (mt (conditionStands_iff s).1 clear)] at h
    exact rest h

/-- What COMMISSION makes of the pool (R160). -/
theorem commissionPool_eq (v : ServiceState) (licence ceiling threshold : Nat) :
    commissionPool (decide (v = .blank)) licence ceiling threshold = fun p => { p with
      licence := licence, ceiling := ceiling, threshold := threshold, day := if v = .blank then 1 else p.day } := by
  cases v <;> rfl

/-- Settles O18. -/
theorem commissionAndUnlock : Obligations.CommissionAndUnlock := by
  refine ⟨fun q licence ceiling threshold s ready => ?commissionOrder, fun q s ready => ?unlockOrder,
    fun q licence ceiling threshold s ready out fits l1 l2 c1 c2 th tamper alarms => ?commission,
    fun q back s ready locked back' fits tamper alarms => ?unlock⟩
  case commissionOrder =>
    obtain ⟨t, e, h⟩ := exec_concluded ready rfl
    exact ⟨t, e, h.plainCheck rfl not_or.symm fun _ h => h.plainCheck rfl Iff.rfl fun _ h =>
      h.conditionCheck rfl fun h => h.answeredOk⟩
  case unlockOrder =>
    obtain ⟨t, e, h⟩ := exec_concluded ready rfl
    exact ⟨t, e, h.plainCheck rfl Iff.rfl fun _ h => h.plainCheck rfl (by simp) fun _ h =>
      h.conditionCheck rfl fun h => h.answeredOk⟩
  case commission =>
    obtain ⟨t, e, h⟩ := exec_concluded ready rfl
    have clear : ¬conditionStands (grant q.port s) = true := by
      rw [conditionStands_grant, conditionStands_iff]; exact not_conditionStands tamper alarms
    have format : ¬(q.fits = false ∨ licence = 0 ∨ maxLicence < licence ∨ ceiling = 0 ∨ maxPool < ceiling ∨
        maxPool < threshold) := by
      simp only [maxLicence, maxPool, fits]; simp; omega
    obtain ⟨armed, r, et, answered⟩ := (h.of_eq ((if_neg (by tauto)).trans ((if_neg format).trans (if_neg clear)))).ok rfl
      ((EngineKept.modPool _).trans (.modService _))
    rw [commissionPool_eq] at et answered
    have pool : t.pool = { s.pool with
        licence := licence, ceiling := ceiling, threshold := threshold
        day := if s.service.state = .blank then 1 else s.pool.day, lowCreditArmed := armed } := by
      rw [et]; rfl
    refine ⟨t, e, ?_, by rw [pool], by rw [et]; rfl⟩
    rw [pool]
    exact answered
  case unlock =>
    obtain ⟨t, e, h⟩ := exec_concluded ready rfl
    have clear : ¬conditionStands (grant q.port s) = true := by
      rw [conditionStands_grant, conditionStands_iff]; exact not_conditionStands tamper alarms
    obtain ⟨armed, r, et, answered⟩ := (h.of_eq ((if_neg (not_not.2 locked)).trans ((if_neg (by simp [fits])).trans
      (if_neg clear)))).ok rfl (.modService _)
    refine ⟨t, e, ?_, by rw [et]; simp [returnTarget, back']⟩
    simpa [returnTarget, back'] using answered

end Sys2Proof.Machine
end

section
/-! The time base, the monitors, the reset input and the cold start (R51, R52, R153, R162 to R164, R168, R169), and the frames
of RESERVE and COMMIT (R172, R176). -/

namespace Sys2Proof.Machine

open Sys2Proof.Config Sys2Proof.Safety

/-! ### Seconds and due holds (R51, R52) -/

theorem isDue_iff (o : Option OpenImprint) : isDue o = true ↔ ∃ r, o = some r ∧ r.holdRemaining = 0 ∧ r.handed = false := by
  cases o <;> simp [isDue]

/-- Settles O41. -/
theorem holdsCountDown : Obligations.HoldsCountDown := by
  refine fun s running => ⟨fun present => ?second, fun lost => ?found, fun k o open_ due unhanded before => ?falls⟩
  case second =>
    refine ⟨{ s with slots := s.slots.map secondPasses }, by simp [exec, execTimeBaseSecond, running, present], rfl, fun k => ?_⟩
    rw [Tab.get_map]
    cases s.slots.get k <;> rfl
  case found => simp [exec, execTimeBaseSecond, running, lost, modService]
  case falls =>
    have first : s.slots.first isDue = some k := by
      refine Tab.first_eq_some.2 ⟨(isDue_iff _).2 ⟨o, open_, due, unhanded⟩, fun j hj => ?_⟩
      refine Bool.eq_false_iff.2 fun isdue => ?_
      obtain ⟨r, held, zero, free⟩ := (isDue_iff _).1 isdue
      simp [before j r hj held zero] at free
    simp [exec, execHoldFallsDue, running, first, open_, setSlot]

/-! ### The monitors (R153, R162 to R164) -/

/-- A hard alarm has a fixed level, so that a raise of it always enters the pending set (R145, R146). -/
theorem afterRaise_alarm {n : SourceNo} (hard : n = 32 ∨ n = 33 ∨ n = 34) (d : Detail) (s : State) :
    afterRaise n d s = some (match s.notices.pending.get n with
      | none => ⟨0, d⟩
      | some r => ⟨min (r.again + 1) 255, d⟩) := by
  have level : sourceLevel s.notices n ≠ 0 := by rcases hard with rfl | rfl | rfl <;> simp [sourceLevel, alarmLevel]
  unfold afterRaise
  rw [if_neg level]
  cases s.notices.pending.get n <;> rfl

theorem alarmConflict_iff (u : NoticeUnit) (n : SourceNo) : alarmConflict u n = true ↔ Conflict u n := by
  have higher : ∀ m : SourceNo, alarmLevel n < alarmLevel m ↔ m < n := fun m => by
    simp only [alarmLevel, Fin.lt_def]; omega
  simp only [alarmConflict, hardAlarms, List.any_eq_true, Bool.and_eq_true, decide_eq_true_eq, alarmStands_iff, higher,
    List.mem_cons, List.not_mem_nil, or_false]
  rfl

theorem alarmState_eq (lock : Bool) (v : Service) : alarmState lock v = alarmTable lock v := by
  obtain ⟨state, back, tamper, low, lost⟩ := v
  cases state <;> cases lock <;> rfl

/-- A hard alarm is raised with the business day and the state as its detail, and the state follows the table of R153. -/
theorem raiseAlarm_table {n : SourceNo} (hard : n = 32 ∨ n = 33 ∨ n = 34) (s : State) :
    ∃ lock : Bool, (lock = true ↔ n = 32 ∨ Conflict s.notices n) ∧ raiseAlarm n s = { s with
      service := alarmTable lock s.service
      notices := { s.notices with pending := s.notices.pending.set n (some (match s.notices.pending.get n with
        | none => ⟨0, .alarm s.pool.day s.service.state⟩
        | some r => ⟨min (r.again + 1) 255, .alarm s.pool.day s.service.state⟩)) } } := by
  refine ⟨decide (n = srcTamper) || alarmConflict s.notices n, ?_, ?_⟩
  · rw [Bool.or_eq_true, alarmConflict_iff, decide_eq_true_eq]; rfl
  · rw [raiseAlarm_eq, alarmState_eq, raiseSource_eq, afterRaise_alarm hard]

/-- Settles O43. -/
theorem monitorsRaiseAlarms : Obligations.MonitorsRaiseAlarms := by
  rintro c n v s running (⟨rfl, rfl, quiet, rfl⟩ | ⟨rfl, rfl, quiet, rfl⟩ | ⟨rfl, rfl, quiet, rfl⟩)
  · obtain ⟨lock, locks, e⟩ := raiseAlarm_table (n := 32) (.inl rfl) (modService (fun v => { v with tamperActive := true }) s)
    exact ⟨_, lock, by simp [exec, execTamperInputActive, running, quiet]; rfl, locks, e⟩
  · obtain ⟨lock, locks, e⟩ :=
      raiseAlarm_table (n := 33) (.inr (.inl rfl)) (modService (fun v => { v with supplyLow := true }) s)
    exact ⟨_, lock, by simp [exec, execSupplyLowInput, running, quiet]; rfl, locks, e⟩
  · obtain ⟨lock, locks, e⟩ :=
      raiseAlarm_table (n := 34) (.inr (.inr rfl)) (modService (fun v => { v with timeBaseLost := true }) s)
    exact ⟨_, lock, by simp [exec, execTimeBaseTimeout, running, quiet]; rfl, locks, e⟩

/-- Settles O44. -/
theorem inputsReturn : Obligations.InputsReturn := by
  refine fun s => ⟨fun running => ⟨?tamper, ?supply⟩, rfl, fun p selector frame extent t h => ?ignored⟩
  case tamper => simp [exec, execTamperInputInactive, running, modService]
  case supply => simp [exec, execSupplyAdequateInput, running, modService]
  case ignored =>
    rcases h with h | h | h
    · exact (Host.Outcome.next.inj h).symm
    · exact (Host.Outcome.next.inj h).symm
    · exact (Host.Outcome.next.inj h).symm

/-! ### The cold start (R168) -/

/-- What is pending after a cold start: the alarms of the inputs that were sampled active. -/
def coldPending (tamper low : Bool) : Tab (Option Raised) 36 :=
  let sampled (t : Tab (Option Raised) 36) (n : SourceNo) (active : Bool) :=
    if active then t.set n (some ⟨0, .alarm 0 .blank⟩) else t
  sampled (sampled (Tab.fill 36 none) srcTamper tamper) srcRetentionFault low

theorem coldPending_get (tamper low : Bool) (n : SourceNo) : (coldPending tamper low).get n =
    if (n = 32 ∧ tamper = true) ∨ (n = 33 ∧ low = true) then some ⟨0, .alarm 0 .blank⟩ else none := by
  cases tamper <;> cases low <;> simp [coldPending, Tab.get_set, srcTamper, srcRetentionFault]; grind

/-- The whole state after a cold start. -/
theorem coldStart_eq (tamper low : Bool) (s : State) : exec (.coldStart tamper low) s = .next { State.reset with
    pending := s.pending, service := ⟨.blank, none, tamper, low, false⟩
    notices := { resetNotices with pending := coldPending tamper low } } := by
  cases tamper <;> cases low <;> rfl

theorem resetLevels_get : ∀ n : Fin 32, resetNotices.levels.get n =
    if 8 ≤ n.val ∧ n.val ≤ 13 then 5 else if 24 ≤ n.val then 3 else 2 := by decide

/-- Settles O46. -/
theorem coldStartValues : Obligations.ColdStartValues := by
  refine ⟨fun tamper low s => ⟨_, coldStart_eq tamper low s, ?_⟩, coldStart_eq false false State.reset⟩
  obtain ⟨pool, heads, slots, rates, stock, stockDay, audit, channels⟩ := coldRecords_reset []
  exact ⟨⟨pool, heads, slots, rates, stock, stockDay, audit, channels⟩, rfl, rfl, rfl, rfl, rfl, rfl, rfl, resetLevels_get,
    coldPending_get tamper low⟩

/-! ### The frames of RESERVE and COMMIT (R172, R176) -/

theorem bigEndian_one (v : Nat) : bigEndian 1 v = [BitVec.ofNat 8 v] := by simp [bigEndian]

theorem bigEndian_two (v : Nat) : bigEndian 2 v = [BitVec.ofNat 8 (v / 256), BitVec.ofNat 8 v] := by simp [bigEndian]

/-- The two bytes of a number that fits them are read back. -/
theorem word_of_bytes {v : Nat} (h : v < 65536) : 256 * (v / 256 % 256) + v % 256 = v := by omega

/-- Settles O47. -/
theorem framesReadBack : Obligations.FramesReadBack := by
  refine ⟨fun number b wf two => ?_, fun number b wf two => ?_⟩
  · obtain ⟨groups, lanes, classA, piecesA, classB, piecesB⟩ := b
    simp only [ReserveBody.wellFormed, fitsBytes, Bool.and_eq_true, Bool.or_eq_true, decide_eq_true_eq] at wf
    obtain ⟨⟨⟨⟨⟨⟨_, hl⟩, ha⟩, hp⟩, hb⟩, hq⟩, laneB⟩ := wf
    rcases two with rfl | rfl
    · obtain ⟨rfl, rfl⟩ : classB = 0 ∧ piecesB = 0 := by simpa using laneB
      simp [reserveFrame, parseReserve, bigEndian_one, bigEndian_two, byteAt, wordAt, lengthFits, slotBytes, word_of_bytes hp]
      omega
    · simp [reserveFrame, parseReserve, bigEndian_one, bigEndian_two, byteAt, wordAt, lengthFits, slotBytes, word_of_bytes hp,
        word_of_bytes hq]
      omega
  · obtain ⟨groups, tag, piecesA, piecesB⟩ := b
    simp only [CommitBody.wellFormed, fitsBytes, Bool.and_eq_true, Bool.or_eq_true, decide_eq_true_eq] at wf
    obtain ⟨⟨⟨⟨_, ht⟩, hp⟩, hq⟩, laneB⟩ := wf
    rcases two with rfl | rfl
    · obtain rfl : piecesB = 0 := by simpa using laneB
      simp [commitFrame, parseCommit, bigEndian_two, byteAt, wordAt, lengthFits, slotBytes, word_of_bytes hp, word_of_bytes ht]
    · simp [commitFrame, parseCommit, bigEndian_two, byteAt, wordAt, lengthFits, slotBytes, word_of_bytes hp,
        word_of_bytes ht, word_of_bytes hq]

end Sys2Proof.Machine
end

section
/-! Raising and attention (R144 to R148), and the counting of one watch channel up to its zero (R129, R135 to R140). -/

namespace Sys2Proof.Machine

open Sys2Proof.Config Sys2Proof.Safety

/-! ### Raising and attention (R144 to R148) -/

theorem sourceLevel_notice (u : NoticeUnit) {n : Fin 32} {src : SourceNo} (e : src.val = n.val) :
    sourceLevel u src = u.levels.get n := by
  have low : src.val < 32 := e ▸ n.isLt
  rw [sourceLevel, dif_pos low]
  exact congrArg u.levels.get (Fin.ext e)

theorem attention_iff (u : NoticeUnit) (p : Port) : attention u p = true ↔ ∃ n r, u.pending.get n = some r ∧ sourceDest n = p ∧
    stackTop (u.ports.get p).stack < sourceLevel u n ∧ ((u.ports.get p).holdCount = 0 ∨ 7 ≤ sourceLevel u n) := by
  simp only [attention, pendingAt, eligible, List.any_eq_true, List.mem_filter, mem_numbers, true_and, Bool.and_eq_true,
    Bool.or_eq_true, decide_eq_true_eq, Option.isSome_iff_exists]
  constructor
  · rintro ⟨n, ⟨rfl, r, pending⟩, ⟨-, above⟩, driven⟩
    exact ⟨n, r, pending, rfl, above, driven⟩
  · rintro ⟨n, r, pending, rfl, above, driven⟩
    exact ⟨n, ⟨rfl, r, pending⟩, ⟨⟨r, pending⟩, above⟩, driven⟩

/-- An again-count saturates at 255 (R146). -/
theorem min_succ_255 (n : Nat) : min (n + 1) 255 = if n < 255 then n + 1 else 255 := by split <;> omega

/-- Settles O6. -/
theorem raiseAndAttention : Obligations.RaiseAndAttention := by
  refine ⟨⟨by decide, by decide, by decide, by decide, by decide, fun u n src e => sourceLevel_notice u e,
    fun u => by simp [sourceLevel, alarmLevel], by decide, rfl, fun _ _ => rfl⟩, attention_iff, fun n d s => ⟨fun off => ?_,
    fun on free => ?_, fun r on held => ?_⟩⟩
  · exact if_pos off
  · rw [raiseSource_eq, afterRaise, if_neg on, free]
  · rw [raiseSource_eq, afterRaise, if_neg on, held]
    simp only [min_succ_255]

/-! ### The events of one movement on one channel (R129, R135 to R137) -/

theorem receiveEvents_add (c : ChannelNo) (ev : SourceEvent) (m n : Nat) (s : State) :
    receiveEvents c ev (m + n) s = receiveEvents c ev n (receiveEvents c ev m s) := by
  induction m generalizing s with
  | zero => simp [receiveEvents]
  | succ m ih =>
    rw [Nat.succ_add]
    cases h : isEventOf (s.channels.get c) ev with
    | true => simp only [receiveEvents, h, if_true]; exact ih _
    | false => simp only [receiveEvents_idle h]

theorem receiveEvents_deaf {c : ChannelNo} {ev : SourceEvent} {s : State}
    (deaf : (s.channels.get c).state = .unloaded ∨ (s.channels.get c).state = .stopped) (n : Nat) :
    receiveEvents c ev n s = s := by
  have same : receiveEvent c ev s = s := by rcases deaf with h | h <;> simp [receiveEvent, h]
  induction n with
  | zero => rfl
  | succ n ih => simp only [receiveEvents, same, ih, ite_self]

theorem receiveEvents_one {c : ChannelNo} {ev : SourceEvent} {s : State} (listens : EventFor (s.channels.get c) ev) :
    receiveEvents c ev 1 s = receiveEvent c ev s := by
  simp [receiveEvents, (isEventOf_iff _ _).2 listens]

/-- A RUNNING channel that an event does not bring to zero ticks. -/
theorem receiveEvent_ticks {c : ChannelNo} {ev : SourceEvent} {s : State} (running : (s.channels.get c).state = .running)
    (last : atLastEvent (s.channels.get c) = false) :
    receiveEvent c ev s = setChannel c (ticked (s.channels.get c)) s := by
  simp [receiveEvent, running, last]

theorem receiveEvent_zero {c : ChannelNo} {ev : SourceEvent} {s : State} (running : (s.channels.get c).state = .running)
    (last : atLastEvent (s.channels.get c) = true) : receiveEvent c ev s = channelZero c ev s := by
  simp [receiveEvent, running, last]

@[simp] theorem setChannel_twice (c : ChannelNo) (x y : Channel) (s : State) :
    setChannel c x (setChannel c y s) = setChannel c x s := by
  simp [setChannel]

theorem setChannel_same (c : ChannelNo) (s : State) : setChannel c (s.channels.get c) s = s := by
  simp [setChannel]

/-- Events that leave the count above 0 tick a RUNNING channel one after another: `ch n` is the channel after `n` of them. -/
theorem receiveEvents_ticks {c : ChannelNo} {ev : SourceEvent} {s : State} {ch : Nat → Channel} {n : Nat}
    (first : ch 0 = s.channels.get c) (listens : ∀ i, EventFor (ch i) ev) (running : ∀ i, (ch i).state = .running)
    (goes : ∀ i, i < n → atLastEvent (ch i) = false ∧ ticked (ch i) = ch (i + 1)) :
    receiveEvents c ev n s = setChannel c (ch n) s := by
  induction n with
  | zero => rw [first, setChannel_same]; rfl
  | succ n ih =>
    obtain ⟨last, next⟩ := goes n (Nat.lt_succ_self n)
    have now : (setChannel c (ch n) s).channels.get c = ch n := by simp
    rw [receiveEvents_add, ih fun i hi => goes i (Nat.lt_succ_of_lt hi), receiveEvents_one (by rw [now]; exact listens n),
      receiveEvent_ticks (by rw [now]; exact running n) (by rw [now]; exact last), now, next, setChannel_twice]

theorem atLastEvent_false {ch : Channel} (h : 1 < ch.count ∨ ch.prescale = .hundred ∧ ch.prescaleCount < 99) :
    atLastEvent ch = false := by
  rw [Bool.eq_false_iff]
  intro last
  obtain ⟨low, full⟩ := (atLastEvent_iff ch).1 last
  rcases h with h | ⟨hundred, part⟩
  · omega
  · rcases full with one | full
    · rw [one] at hundred; cases hundred
    · omega

/-- A channel under prescale 1 counts every event (R137). -/
theorem receiveEvents_each {c : ChannelNo} {ev : SourceEvent} {n : Nat} {s : State} (listens : EventFor (s.channels.get c) ev)
    (running : (s.channels.get c).state = .running) (one : (s.channels.get c).prescale = .one)
    (above : n < (s.channels.get c).count) : receiveEvents c ev n s =
      setChannel c { s.channels.get c with count := (s.channels.get c).count - n } s := by
  refine receiveEvents_ticks (ch := fun i => { s.channels.get c with count := (s.channels.get c).count - i }) rfl
    (fun _ => listens) (fun _ => running) fun i hi => ⟨atLastEvent_false (.inl ?_), ?_⟩
  · dsimp only; omega
  · rw [ticked_one (by exact one)]; rfl

/-- A channel under prescale 100 counts every hundredth event (R137). -/
theorem receiveEvents_hundreds {c : ChannelNo} {ev : SourceEvent} {n : Nat} {s : State}
    (listens : EventFor (s.channels.get c) ev) (running : (s.channels.get c).state = .running)
    (hundred : (s.channels.get c).prescale = .hundred) (part : (s.channels.get c).prescaleCount ≤ 99)
    (above : ((s.channels.get c).prescaleCount + n) / 100 < (s.channels.get c).count) : receiveEvents c ev n s =
      setChannel c { s.channels.get c with
        count := (s.channels.get c).count - ((s.channels.get c).prescaleCount + n) / 100
        prescaleCount := ((s.channels.get c).prescaleCount + n) % 100 } s := by
  generalize old : s.channels.get c = ch at *
  refine receiveEvents_ticks (ch := fun i => { ch with
      count := ch.count - (ch.prescaleCount + i) / 100, prescaleCount := (ch.prescaleCount + i) % 100 }) ?first
    (fun _ => listens) (fun _ => running) fun i hi => ?goes
  case first =>
    have : ch.prescaleCount / 100 = 0 ∧ ch.prescaleCount % 100 = ch.prescaleCount := by omega
    simp [old, this]
  case goes =>
    by_cases full : 99 ≤ (ch.prescaleCount + i) % 100
    · refine ⟨atLastEvent_false (.inl ?_), ?_⟩
      · dsimp only; omega
      · rw [ticked_hundred (by exact hundred) full]
        have : (ch.prescaleCount + (i + 1)) % 100 = 0 ∧
            ch.count - (ch.prescaleCount + (i + 1)) / 100 = ch.count - (ch.prescaleCount + i) / 100 - 1 := by omega
        simp only [this]
    · refine ⟨atLastEvent_false (.inr ⟨hundred, by dsimp only; omega⟩), ?_⟩
      rw [ticked_part (by exact hundred) full]
      have : (ch.prescaleCount + (i + 1)) % 100 = (ch.prescaleCount + i) % 100 + 1 ∧
          (ch.prescaleCount + (i + 1)) / 100 = (ch.prescaleCount + i) / 100 := by omega
      simp only [this]

/-- The last event of a RUNNING channel, commanded on its own (log 6). -/
theorem exec_watchChannelZero {c : ChannelNo} {ev : SourceEvent} {s : State} (free : s.resetHeld = false)
    (running : (s.channels.get c).state = .running) (listens : EventFor (s.channels.get c) ev)
    (one : (s.channels.get c).count = 1)
    (full : (s.channels.get c).prescale = .one ∨ (s.channels.get c).prescaleCount = 99) :
    exec (.watchChannelZero c ev) s = .next (channelZero c ev s) ∧ atLastEvent (s.channels.get c) = true := by
  have last : atLastEvent (s.channels.get c) = true :=
    (atLastEvent_iff _).2 ⟨one.le, full.imp_right fun e => e.ge⟩
  refine ⟨?_, last⟩
  simp [exec, execWatchChannelZero, free, running, (isEventOf_iff _ _).2 listens, last]

/-- Settles O39. -/
theorem watchCounting : Obligations.WatchCounting := by
  refine fun c ev n s => ⟨fun m => receiveEvents_add c ev m n s, fun deaf => ?foreign, fun deaf => receiveEvents_deaf deaf n,
    fun listens waiting => ?starts, receiveEvents_each, receiveEvents_hundreds, fun listens running one full free => ?zero⟩
  case foreign => exact receiveEvents_idle (Bool.eq_false_iff.2 (mt (isEventOf_iff _ _).1 deaf)) n
  case starts => simp [receiveEvents, (isEventOf_iff _ _).2 listens, receiveEvent, waiting]
  case zero =>
    obtain ⟨e, last⟩ := exec_watchChannelZero free running listens one full
    rw [e, receiveEvents_one listens, receiveEvent_zero running last]

/-! ### The zero of a channel (R138 to R140) -/

/-- What the inhibition of the heads of `hs` by channel `c` leaves: each of them held by `c`, and HEAD_INHIBITED raised for
those that no channel held (R17, R140). -/
structure Inhibits (c : ChannelNo) (hs : List Head) (s t : State) : Prop where
  shape : t = { s with heads := t.heads, notices := { s.notices with pending := t.notices.pending } }
  held : ∀ h ∈ hs,
    t.heads.get h = { s.heads.get h with inhibitHolders := (s.heads.get h).inhibitHolders.set c true } ∧
    t.notices.pending.get (srcHeadInhibited h) =
      if ∀ k, (s.heads.get h).inhibitHolders.get k = false then afterRaise (srcHeadInhibited h) (.headInhibited c) s
      else s.notices.pending.get (srcHeadInhibited h)
  free : ∀ h, h ∉ hs → t.heads.get h = s.heads.get h ∧
    t.notices.pending.get (srcHeadInhibited h) = s.notices.pending.get (srcHeadInhibited h)
  raises : ∀ n, (∀ h, n ≠ srcHeadInhibited h) → t.notices.pending.get n = s.notices.pending.get n

theorem inhibitHead_inhibits (c : ChannelNo) (s : State) (h : Head) : Inhibits c [h] s (inhibitHead c s h) := by
  obtain ⟨r, e, -⟩ := inhibitHead_eq c s h
  have own : (inhibitHead c s h).notices.pending.get (srcHeadInhibited h) =
      if ∀ k, (s.heads.get h).inhibitHolders.get k = false then afterRaise (srcHeadInhibited h) (.headInhibited c) s
      else s.notices.pending.get (srcHeadInhibited h) := by
    simp only [inhibitHead, noHolders_iff]
    split
    · rw [raiseSource_pending, if_pos rfl]; rfl
    · rfl
  refine ⟨by rw [e], fun x hx => ?_, fun x hx => ?_, fun n hn => by rw [e]; exact Tab.get_set_ne _ _ (hn h)⟩
  · obtain rfl := List.mem_singleton.1 hx
    exact ⟨by rw [e]; exact Tab.get_modify_self .., own⟩
  · have other : x ≠ h := fun same => hx (List.mem_singleton.2 same)
    rw [e]
    exact ⟨Tab.get_modify_ne _ _ other, Tab.get_set_ne _ _ fun same => other (srcHeadInhibited_inj same)⟩

theorem inhibits_spec (c : ChannelNo) {hs : List Head} (once : hs.Nodup) (s : State) :
    Inhibits c hs s (hs.foldl (inhibitHead c) s) := by
  induction hs generalizing s with
  | nil => exact ⟨rfl, fun _ h => absurd h List.not_mem_nil, fun _ _ => ⟨rfl, rfl⟩, fun _ _ => rfl⟩
  | cons h hs ih =>
    obtain ⟨other, once⟩ := List.nodup_cons.1 once
    rw [List.foldl_cons]
    have one := inhibitHead_inhibits c s h
    have rest := ih once (inhibitHead c s h)
    generalize inhibitHead c s h = u at one rest
    generalize hs.foldl (inhibitHead c) u = t at rest
    have levels : u.notices.levels = s.notices.levels := by rw [one.shape]
    refine ⟨by rw [rest.shape, one.shape], fun x hx => ?_, fun x hx => ?_, fun n hn => (rest.raises n hn).trans (one.raises n hn)⟩
    · by_cases same : x = h
      · subst same
        exact ⟨(rest.free x other).1.trans (one.held x (by simp)).1, (rest.free x other).2.trans (one.held x (by simp)).2⟩
      · obtain ⟨heads, pending⟩ := one.free x (by simpa using same)
        obtain ⟨heads', pending'⟩ := rest.held x ((List.mem_cons.1 hx).resolve_left same)
        rw [heads, pending, afterRaise_congr levels pending] at pending'
        exact ⟨heads'.trans (by rw [heads]), pending'⟩
    · obtain ⟨mine, others⟩ := not_or.1 (mt List.mem_cons.2 hx)
      obtain ⟨heads, pending⟩ := one.free x (by simpa using mine)
      obtain ⟨heads', pending'⟩ := rest.free x others
      exact ⟨heads'.trans heads, pending'.trans pending⟩

theorem mem_headsOf (m : HeadSet) (h : Head) : h ∈ headsOf m ↔ m.get h = true := by
  simp [headsOf, Tab.indices]

theorem headsOf_nodup (m : HeadSet) : (headsOf m).Nodup := (List.nodup_finRange 6).filter _

theorem actionNotifies_iff (a : WatchAction) : actionNotifies a = true ↔ a = .notice ∨ a = .noticeInhibit := by
  cases a <;> simp [actionNotifies]

theorem actionInhibits_iff (a : WatchAction) : actionInhibits a = true ↔ a = .inhibit ∨ a = .noticeInhibit := by
  cases a <;> simp [actionInhibits]

/-- The heads that the zero of a channel inhibits. -/
def zeroInhibits (ch : Channel) : List Head := if actionInhibits ch.action then headsOf ch.inhibitMask else []

theorem mem_zeroInhibits (ch : Channel) (h : Head) :
    h ∈ zeroInhibits ch ↔ (ch.action = .inhibit ∨ ch.action = .noticeInhibit) ∧ ch.inhibitMask.get h = true := by
  unfold zeroInhibits
  split
  · rename_i inhibits
    simp [mem_headsOf, (actionInhibits_iff _).1 inhibits]
  · rename_i passes
    simp [mt (actionInhibits_iff _).2 passes]

/-- The state whose heads the zero of a channel inhibits: reloaded, and WATCH_ZERO raised where the action says so. -/
def zeroNotified (c : ChannelNo) (ev : SourceEvent) (s : State) : State :=
  let ch := reloaded (s.channels.get c)
  if actionNotifies ch.action then raiseSource (srcWatchZero c) (.watchZero c ch.count ev) (setChannel c ch s)
  else setChannel c ch s

theorem channelZero_eq (c : ChannelNo) (ev : SourceEvent) (s : State) :
    channelZero c ev s = (zeroInhibits (s.channels.get c)).foldl (inhibitHead c) (zeroNotified c ev s) := by
  simp only [channelZero, runActions, setChannel_channels, Tab.get_set_self, zeroNotified, zeroInhibits]
  split <;> split <;> simp_all [reloaded]

/-- The zero raises WATCH_ZERO before it inhibits, and touches nothing else (R138). -/
theorem zeroNotified_eq (c : ChannelNo) (ev : SourceEvent) (s : State) : zeroNotified c ev s = { s with
    channels := s.channels.set c (reloaded (s.channels.get c))
    notices.pending := s.notices.pending.set (srcWatchZero c)
      (if actionNotifies (s.channels.get c).action then
        afterRaise (srcWatchZero c) (.watchZero c (reloaded (s.channels.get c)).count ev) s
      else s.notices.pending.get (srcWatchZero c)) } := by
  have same : (reloaded (s.channels.get c)).action = (s.channels.get c).action := rfl
  simp only [zeroNotified, same]
  split
  · rw [raiseSource_eq]; rfl
  · simp [setChannel]

/-- Settles O40. -/
theorem watchZeroActs : Obligations.WatchZeroActs := by
  intro c ev s free running listens one full
  obtain ⟨e, -⟩ := exec_watchChannelZero free running listens one full
  refine ⟨_, e, ?_⟩
  rw [channelZero_eq]
  have nodup : (zeroInhibits (s.channels.get c)).Nodup := by
    unfold zeroInhibits; split
    · exact headsOf_nodup _
    · exact List.nodup_nil
  obtain ⟨shape, held, others, raises⟩ := inhibits_spec c nodup (zeroNotified c ev s)
  simp only [mem_zeroInhibits] at held others
  generalize (zeroInhibits (s.channels.get c)).foldl (inhibitHead c) (zeroNotified c ev s) = t at *
  have noticed := zeroNotified_eq c ev s
  have inhibited : ∀ h, (zeroNotified c ev s).notices.pending.get (srcHeadInhibited h) =
      s.notices.pending.get (srcHeadInhibited h) := fun h => by
    rw [noticed]; exact Tab.get_set_ne _ _ (srcHeadInhibited_ne_zero h c)
  have raise : ∀ h d, afterRaise (srcHeadInhibited h) d (zeroNotified c ev s) = afterRaise (srcHeadInhibited h) d s :=
    fun h d => afterRaise_congr (by rw [noticed]) (inhibited h) d
  have heads : (zeroNotified c ev s).heads = s.heads := by rw [noticed]
  have own : t.notices.pending.get (srcWatchZero c) = if actionNotifies (s.channels.get c).action then
      afterRaise (srcWatchZero c) (.watchZero c (reloaded (s.channels.get c)).count ev) s
      else s.notices.pending.get (srcWatchZero c) := by
    rw [raises _ fun h => (srcHeadInhibited_ne_zero h c).symm, noticed]
    exact Tab.get_set_self ..
  simp only [heads, raise, inhibited] at held others
  refine ⟨by rw [shape, noticed]; rfl, by rw [shape, noticed], fun notice => ?_, fun quiet => ?_, held, others, fun n hn => ?_⟩
  · rw [own, if_pos ((actionNotifies_iff _).2 notice)]; rfl
  · rw [own, if_neg (mt (actionNotifies_iff _).1 quiet)]
  · obtain ⟨zero, heads⟩ := not_or.1 (mt List.mem_cons.2 hn)
    rw [raises n fun h same => heads (List.mem_map.2 ⟨h, List.mem_finRange h, same.symm⟩), noticed]
    exact Tab.get_set_ne _ _ zero

end Sys2Proof.Machine
end

section
/-! The notice requests NOTICE_HOLD, NOTICE_NESTING, NOTICE_LEVEL and NOTICE_DONE (R147, R150 to R152, R154). -/

namespace Sys2Proof.Machine

open Sys2Proof.Config Sys2Proof.Safety

/-! ### NOTICE_HOLD, NOTICE_NESTING and the end of a hold (R151, R152) -/

/-- The grant lowers the hold count of its port alone. -/
theorem grant_holdCount_ne {p p' : Port} (other : p' ≠ p) (s : State) :
    ((grant p s).notices.ports.get p').holdCount = (s.notices.ports.get p').holdCount := by
  rw [grant_notices, Tab.get_modify_ne _ _ other]

/-- Settles O22. -/
theorem noticeSettings : Obligations.NoticeSettings := by
  refine ⟨fun q n s ready fits low => ?hold, fun q on s ready fits => ?nesting, fun p s free one => ?ends,
    fun q c n o s refused ready => ?refused⟩
  case hold =>
    obtain ⟨t, e, h⟩ := exec_concluded ready rfl
    have good : ¬(q.fits = false ∨ 255 < n) := by simp [fits]; omega
    obtain ⟨armed, r, et, answered⟩ := (h.of_eq (if_neg good)).ok rfl
      (EngineKept.modNoticePort (changed := [.holds]) (fun _ _ => rfl) (fun _ _ => rfl) fun h => absurd (List.mem_singleton_self _) h)
    refine ⟨t, e, answered, fun p => ?_⟩
    rw [et, concluded_ports]
    change (((grant q.port s).notices.ports.modify q.port _).get p).holdCount = _
    rw [Tab.get_modify]
    split
    · rfl
    · exact grant_holdCount_ne ‹_› s
  case nesting =>
    obtain ⟨t, e, h⟩ := exec_concluded ready rfl
    obtain ⟨armed, r, et, answered⟩ := (h.of_eq (if_neg (by simp [fits]))).ok rfl
      (EngineKept.modNoticePort (changed := [.nesting]) (fun _ _ => rfl) (fun h => absurd (List.mem_singleton_self _) h) fun _ _ => rfl)
    refine ⟨t, e, answered, fun p => ?_⟩
    rw [et, concluded_ports]
    change (((grant q.port s).notices.ports.modify q.port _).get p).noNesting = _
    rw [Tab.get_modify]
    split
    · rfl
    · exact grant_noNesting _ _ s
  case ends => simp [exec, execHoldCountEnd, free, one, modNoticePort, modNotices]
  case refused =>
    rcases refused with ⟨rfl, bad⟩ | ⟨rfl, bad⟩
    · obtain ⟨t, e, h⟩ := exec_concluded ready rfl
      exact ⟨t, e, (h.of_eq (if_pos bad)).plainRefused rfl⟩
    · obtain ⟨t, e, h⟩ := exec_concluded ready rfl
      have refuses : engineNoticeNesting q o (grant q.port s) = refuse (grant q.port s) .format .none := by
        cases o with
        | unknown => rfl
        | known on => exact if_pos (by simpa using bad)
      exact ⟨t, e, (h.of_eq refuses).plainRefused rfl⟩

/-! ### NOTICE_LEVEL (R147) -/

theorem appliedLevel_eq (l : Nat) : appliedLevel l = if 8 ≤ l then 7 else l := by
  unfold appliedLevel; split <;> omega

theorem appliedLevel_eq_zero (l : Nat) : appliedLevel l = 0 ↔ l = 0 := by
  unfold appliedLevel; omega

theorem EngineKept.setLevel {q : Req} {g : State} (n : Fin 32) (l : Nat) :
    EngineKept [.levels, .raises] q g (modNotices (setLevel n l) g) := by
  refine ⟨links_same q g, rfl, rfl, rfl, rfl, fun part hp => ?_⟩
  cases part with
  | levels | raises => simp at hp
  | heads | inhibits | stack | nesting | holds => exact fun _ => rfl
  | _ => rfl

/-- What the evaluation behind an accepted request leaves of LOW_CREDIT (R6). -/
theorem Concluded.lowCredit {c : Instr} {q : Req} {s t u : State} {body : ReplyBody} {w : Bool}
    (h : Concluded c q s t ⟨u, .ok, body, w⟩) : t.notices.pending.get srcLowCredit = lowCreditAfter u :=
  h.serve ▸ serve_lowCredit (engine := fun _ => ⟨u, .ok, body, w⟩) h.ready rfl rfl

/-- Settles O23. -/
theorem noticeLevelApplied : Obligations.NoticeLevelApplied := by
  refine ⟨fun q n level s ready => ?order, fun q n src level s ready fits low number own => ?applied⟩
  case order =>
    obtain ⟨t, e, h⟩ := exec_concluded ready rfl
    refine ⟨t, e, ?_⟩
    simp only [engineOf, engineNoticeLevel] at h
    cases named : index 32 n with
    | none =>
      rw [named] at h
      rw [if_pos (.inr (.inl (Nat.lt_of_succ_le (index_eq_none.1 named))))]
      exact h.plainRefused rfl
    | some x =>
      obtain rfl := index_eq_some.1 named
      rw [named] at h
      refine h.plainCheck rfl ⟨fun bad => bad.imp_right .inr, fun bad => bad.imp_right fun b => b.resolve_left (by omega)⟩
        fun _ h src number => ?_
      obtain rfl : src = ⟨x.val, Nat.lt_trans x.isLt (by decide)⟩ := Fin.ext number
      exact h.plainCheck rfl Iff.rfl fun _ h => h.answeredOk
  case applied =>
    obtain rfl : src = ⟨n.val, Nat.lt_trans n.isLt (by decide)⟩ := Fin.ext number
    obtain ⟨t, e, h⟩ := exec_concluded ready rfl
    simp only [engineOf, engineNoticeLevel, index_val] at h
    have ok := (h.of_eq (if_neg (by simp [fits]; omega))).of_eq (if_neg (not_not.2 own))
    obtain ⟨armed, r, et, answered⟩ := ok.ok rfl (.setLevel n _)
    have credit := ok.lowCredit
    simp only [appliedLevel_eq_zero] at answered
    rw [← appliedLevel_eq]
    refine ⟨t, e, answered, fun m => ?_, fun m other => ?_, credit.trans ?_⟩
    · rw [et, concluded_levels]
      exact Tab.get_set ..
    · rw [et, concluded_pending other]
      simp only [modNotices_notices, setLevel, appliedLevel_eq_zero]
      by_cases zero : level = 0 <;> simp [zero, Tab.get_set]
    · simp only [lowCreditAfter, afterRaise, sourceLevel, modNotices_notices, setLevel, appliedLevel_eq_zero]
      rfl

/-! ### NOTICE_DONE (R150, R154) -/

theorem EngineKept.returnFromHalted {q : Req} {g : State} (p : Port) :
    EngineKept [.service] q g (returnFromHalted p g) := by
  unfold Machine.returnFromHalted
  split
  · exact .modService _
  · exact (EngineKept.refl q g).mono (by decide)

/-- No hard alarm is left when none is pending and no level of 9 to 11 is on the funding port's stack (R154). -/
theorem standingAlarms_eq_nil (u : NoticeUnit) : standingAlarms u = [] ↔
    (∀ n : SourceNo, n = 32 ∨ n = 33 ∨ n = 34 → u.pending.get n = none) ∧
    ∀ v, 9 ≤ v → v ≤ 11 → v ∉ (u.ports.get 7).stack := by
  have none_stands : standingAlarms u = [] ↔ ∀ n : SourceNo, n = 32 ∨ n = 33 ∨ n = 34 → ¬AlarmStands u n := by
    rw [List.eq_nil_iff_forall_not_mem]
    simp only [(standingAlarms_list u).complete, not_and]
  rw [none_stands]
  refine ⟨fun h => ⟨fun n hard => ?_, fun v low high level => ?_⟩, fun ⟨free, clear⟩ n hard stands => ?_⟩
  · simpa using (not_or.1 (h n hard)).1
  · refine h ⟨43 - v, by omega⟩ (by simp only [Fin.ext_iff]; change 43 - v = 32 ∨ 43 - v = 33 ∨ 43 - v = 34; omega) (.inr ?_)
    rwa [show alarmLevel ⟨43 - v, by omega⟩ = v by simp only [alarmLevel]; omega]
  · rcases stands with pending | level
    · simp [free n hard] at pending
    · refine clear _ ?_ ?_ level <;> rcases hard with rfl | rfl | rfl <;> decide

theorem returnFromHalted_service_eq (p : Port) (s : State) : (returnFromHalted p s).service =
    if p = 7 ∧ s.service.state = .halted ∧ standingAlarms s.notices = [] then { s.service with state := .inService }
    else s.service := by
  unfold returnFromHalted
  split
  · rename_i returns; exact (if_pos returns).symm
  · rename_i stays; exact (if_neg stays).symm

/-- Settles O25. -/
theorem noticeDonePops : Obligations.NoticeDonePops := by
  refine ⟨fun q l rest s ready fits top => ?popped, fun q s ready fits empty => ?empty⟩
  case popped =>
    obtain ⟨t, e, h⟩ := exec_concluded ready rfl
    obtain ⟨u, left⟩ : ∃ u, u = modNoticePort q.port (fun x => { x with stack := rest }) (grant q.port s) := ⟨_, rfl⟩
    have pops : engineOf (.noticeDone q) (grant q.port s) =
        accept (returnFromHalted q.port u) (.noticeDone l (stackTop rest)) := by
      simp [engineOf, engineNoticeDone, extraBody, fits, top, left]
    have kept : EngineKept [.stack] q (grant q.port s) u := left ▸
      EngineKept.modNoticePort (fun h => absurd (List.mem_singleton_self _) h) (fun _ _ => rfl) fun _ _ => rfl
    obtain ⟨armed, r, et, answered⟩ := (h.of_eq pops).ok rfl (kept.trans (.returnFromHalted _))
    have tops : ∀ p, (u.notices.ports.get p).stack = if p = q.port then rest else (s.notices.ports.get p).stack := fun p => by
      rw [left, modNoticePort_notices, Tab.get_modify]
      split
      · rfl
      · exact grant_stack ..
    have service : t.service = if q.port = 7 ∧ s.service.state = .halted ∧ standingAlarms u.notices = [] then
        { s.service with state := .inService } else s.service := by
      rw [et, concluded_service]
      refine (returnFromHalted_service_eq q.port u).trans ?_
      rw [left]; rfl
    have clears : (q.port = 7 ∧ s.service.state = .halted ∧ standingAlarms u.notices = []) ↔
        q.port = 7 ∧ s.service.state = .halted ∧ (∀ n : SourceNo, n = 32 ∨ n = 33 ∨ n = 34 → s.notices.pending.get n = none) ∧
          ∀ v, 9 ≤ v → v ≤ 11 → v ∉ rest := by
      refine and_congr_right fun funding => and_congr_right fun _ => ?_
      rw [standingAlarms_eq_nil, tops, if_pos funding.symm, left]
      rfl
    refine ⟨t, e, answered, fun p => ?_, fun returns => ?_, fun stays => ?_⟩
    · rw [et, concluded_ports, ← tops p]
      exact congrArg (fun v => (v.ports.get p).stack) (returnFromHalted_notices q.port u)
    · rw [service, if_pos (clears.2 returns)]
    · rw [service, if_neg (mt clears.1 stays)]
  case empty =>
    obtain ⟨t, e, h⟩ := exec_concluded ready rfl
    have refuses : engineOf (.noticeDone q) (grant q.port s) = refuse (grant q.port s) .notInService .none := by
      simp [engineOf, engineNoticeDone, extraBody, fits, empty]
    exact ⟨t, e, (h.of_eq refuses).unrecorded rfl fun _ => rfl⟩

end Sys2Proof.Machine
end

section
/-! The requests on one class of the rate table, one entry of the stock table and one watch channel (R64 to R68, R93, R94, R99 to
R101, R130 to R134, R141). -/

namespace Sys2Proof.Machine

open Sys2Proof.Config Sys2Proof.Safety

/-- The two checks that the table requests open with: the service state, and what fails FORMAT without a body. -/
theorem Concluded.tableChecks {c : Instr} {q : Req} {s t : State} {a : Answer} {bad X : Prop} [Decidable bad]
    (h : Concluded c q s t a) (plain : moneyCodes.contains (requestCode c) = false)
    (idle : isWorking s.service.state = false → a = refuse (grant q.port s) .state .none)
    (misshapen : isWorking s.service.state = true → bad → a = refuse (grant q.port s) .format .none)
    (rest : isWorking s.service.state = true → ¬bad → X) :
    if ¬(s.service.state = .inService ∨ s.service.state = .halted) then PlainRefused q s t .state .none
    else if bad then PlainRefused q s t .format .none else X := by
  cases working : isWorking s.service.state with
  | false =>
    rw [if_pos ((not_working_iff _).1 (by rw [working]; rfl))]
    exact (h.of_eq (idle working)).plainRefused plain
  | true =>
    rw [if_neg (not_not.2 ((isWorking_iff _).1 working))]
    split
    · rename_i fails
      exact (h.of_eq (misshapen working fails)).plainRefused plain
    · exact rest working ‹_›

/-! ### SET_RATE and WITHDRAW_RATE (R64 to R68) -/

theorem isUnknown_iff {α : Type} (x : Coded α) : isUnknown x = true ↔ x = .unknown := by
  cases x <;> simp [isUnknown]

theorem pendingFate_now {e day : Nat} (now : e ≤ day) (r : RateClass) :
    pendingFate e day r = if r.waiting.isSome then .discarded else .none := by
  unfold pendingFate
  cases r.waiting <;> simp [effectiveNow, now]

theorem pendingFate_later {e day : Nat} (later : day < e) (r : RateClass) :
    pendingFate e day r = if r.waiting.isSome then .replaced else .none := by
  unfold pendingFate
  cases r.waiting <;> simp [effectiveNow, later]

/-- An accepted change of a class: at once, or pending (R65 to R68). -/
theorem Concluded.rateChanged {c : Instr} {q : Req} {s t : State} {cls : ClassNo} {content : Option RateEntry} {e : Nat}
    (h : Concluded c q s t (changeRate cls content e (grant q.port s)))
    (plain : moneyCodes.contains (requestCode c) = false) : (∀ k, k ≠ cls → t.rates.get k = s.rates.get k) ∧
    (e ≤ s.pool.day → t.rates.get cls = ⟨content, none⟩ ∧
      Answered [.rates] q s t (okReply q (.rateChanged cls .active s.pool.day
        (if (s.rates.get cls).waiting.isSome then .discarded else .none)))) ∧
    (s.pool.day < e → t.rates.get cls = ⟨(s.rates.get cls).active, some ⟨e, content⟩⟩ ∧
      Answered [.rates] q s t (okReply q (.rateChanged cls .pending e
        (if (s.rates.get cls).waiting.isSome then .replaced else .none)))) := by
  obtain ⟨armed, r, et, answered⟩ := h.ok plain (.modRate cls _)
  have rates : t.rates = s.rates.modify cls (changedRate content e s.pool.day) := by rw [et]; rfl
  simp only [grant_pool, grant_rates] at answered
  refine ⟨fun k hk => by rw [rates, Tab.get_modify_ne _ _ hk], fun now => ⟨?_, ?_⟩, fun later => ⟨?_, ?_⟩⟩
  · rw [rates, Tab.get_modify_self]; simp [changedRate, effectiveNow, now]
  · rw [pendingFate_now now] at answered
    simpa [effectiveNow, now] using answered
  · rw [rates, Tab.get_modify_self]; simp [changedRate, effectiveNow, later]
  · rw [pendingFate_later later] at answered
    simpa [effectiveNow, Nat.not_le.2 later] using answered

/-- The fields of an accepted SET_RATE (R64). -/
theorem rateLineBroken_eq_none {cls : ClassNo} {u p n : Nat} {m : RoundingMode} {fb : Option Nat} (rate : 1 ≤ u ∧ u ≤ 999999)
    (supplement : p ≤ 99999) (minimum : 1 ≤ n ∧ n ≤ 9999) (fallback : ∀ g, fb = some g → g ≤ 63 ∧ g ≠ cls.val) :
    rateLineBroken cls.val ⟨u, p, .known m, n, fb⟩ = none := by
  have bound : maxPieces = 9999 := rfl
  unfold rateLineBroken
  rw [if_neg (by omega), if_neg (by dsimp only; omega), if_neg (by dsimp only; omega), if_neg (by simp [isUnknown]),
    if_neg (by dsimp only; omega)]
  cases fb with
  | none => rfl
  | some g => exact if_neg (by have := fallback g rfl; omega)

/-- Settles O19. -/
theorem rateChanges : Obligations.RateChanges := by
  refine ⟨fun q cls e f s ready => ?setOrder, fun q cls e s ready => ?withdrawOrder,
    fun q cls e c content s change ready taken fits => ?changed⟩
  case setOrder =>
    obtain ⟨t, ex, h⟩ := exec_concluded ready rfl
    refine ⟨t, ex, h.plainCheck rfl (not_working_iff _) fun _ h => h.plainCheck rfl (by simp) fun _ h => ?_⟩
    have line : ∀ n, rateLineBroken cls f = some n → PlainRefused q s t .format (.formatLine n) := fun n broken => by
      rw [broken] at h; exact h.plainRefused rfl
    have pass : rateLineBroken cls f = none → AnsweredOk q t := fun sound => by rw [sound] at h; exact h.answeredOk
    have bound : maxPieces = 9999 := rfl
    split
    · exact line 2 (by simp [rateLineBroken, *])
    split
    · exact line 3 (by simp [rateLineBroken, *])
    split
    · exact line 4 (by simp [rateLineBroken, *])
    split
    · exact line 5 (by simp [rateLineBroken, isUnknown_iff, *])
    split
    · exact line 6 (by simp [rateLineBroken, isUnknown_iff, *])
    split
    · rename_i broken
      obtain ⟨g, e, own⟩ := broken
      exact line 7 (by simp [rateLineBroken, isUnknown_iff, *])
    · rename_i sound
      refine pass ?_
      cases e : f.fallback with
      | none => simp [rateLineBroken, isUnknown_iff, *]
      | some g => have : ¬(63 < g ∨ g = cls) := fun own => sound ⟨g, e, own⟩
                  simp [rateLineBroken, isUnknown_iff, *]
  case withdrawOrder =>
    obtain ⟨t, ex, h⟩ := exec_concluded ready rfl
    refine ⟨t, ex, h.plainCheck rfl (not_working_iff _) fun _ h => ?_⟩
    cases named : index 64 cls with
    | none =>
      rw [named] at h
      rw [if_pos (.inr (Nat.lt_of_succ_le (index_eq_none.1 named)))]
      exact ⟨_, h.plainRefused rfl⟩
    | some x =>
      obtain rfl := index_eq_some.1 named
      rw [named] at h
      split
      · rename_i bad
        exact ⟨_, (h.of_eq (if_pos (by simpa using bad.resolve_right (by omega)))).plainRefused rfl⟩
      · rename_i good
        exact (h.of_eq (if_neg (by simpa using (not_or.1 good).1))).answeredOk
  case changed =>
    have working : ¬(!isWorking s.service.state) = true := fun idle => (not_working_iff _).1 idle taken
    have shaped : ¬(!q.fits) = true := by simp [fits]
    rcases change with ⟨rfl, rfl⟩ | ⟨u, p, m, n, fb, rfl, u1, u2, p1, n1, n2, fallback⟩
    · obtain ⟨t, ex, h⟩ := exec_concluded ready rfl
      have accepts : engineOf (.withdrawRate q cls.val e) (grant q.port s) = changeRate cls none e (grant q.port s) := by
        refine (if_neg working).trans ?_
        rw [index_val]
        exact if_neg shaped
      exact ⟨t, ex, (h.of_eq accepts).rateChanged rfl⟩
    · obtain ⟨t, ex, h⟩ := exec_concluded ready rfl
      have sound : rateLineBroken cls.val ⟨u, p, .known m, n, fb⟩ = none := by
        refine rateLineBroken_eq_none ⟨u1, u2⟩ p1 ⟨n1, n2⟩ fun g e => ?_
        rcases fallback with ⟨rfl, -⟩ | ⟨x, rfl, other, -⟩
        · cases e
        · obtain rfl := Option.some.inj e
          exact ⟨by omega, fun same => other (Fin.ext same)⟩
      have entry : some (rateEntryOf ⟨u, p, .known m, n, fb⟩) = content := by
        rcases fallback with ⟨rfl, rfl⟩ | ⟨x, rfl, -, rfl⟩
        · rfl
        · simp [rateEntryOf]
      have accepts : engineOf (.setRate q cls.val ⟨u, p, .known m, n, fb⟩ e) (grant q.port s) =
          changeRate cls content e (grant q.port s) := by
        refine (if_neg working).trans ((if_neg shaped).trans ?_)
        rw [sound, ← entry]
        exact congrArg (fun k => changeRate k _ e _) (Fin.ofNat_val_eq_self cls)
      exact ⟨t, ex, (h.of_eq accepts).rateChanged rfl⟩

/-! ### The stock table (R93, R94, R99 to R101) -/

theorem reportsEntry_of {st : StockState} {refused : ReplyBody → Prop} (h : refused (.entryState st)) :
    ReportsEntry st refused := by
  cases st with
  | unused => exact h
  | active d => exact ⟨d, h⟩
  | retired d => exact ⟨d, h⟩

section Stock
variable {q : Req} {e : EntryNo} {n : Nat} {g : State}

theorem engineStockDefine_checked (working : isWorking g.service.state = true) (fits : q.fits = true)
    (range : 1 ≤ n ∧ n ≤ 99999) : engineStockDefine q e.val n g =
      if (g.stock.get e).state ≠ .unused then refuse g .entry (.entryState (g.stock.get e).state)
      else accept (modStock e (fun r => { r with state := .active n }) g) (.stockDefined e n) := by
  simp only [engineStockDefine, working, index_val]
  refine (if_neg (by decide)).trans (if_neg ?_)
  simp only [fits, Bool.true_eq_false, false_or]; omega

theorem engineStockRetire_active {d : Nat} (working : isWorking g.service.state = true) (fits : q.fits = true)
    (active : (g.stock.get e).state = .active d) : engineStockRetire q e.val g =
      if (g.stock.get e).onHand ≠ 0 then refuse g .notEmpty (.entryOnHand (g.stock.get e).onHand)
      else accept (modStock e (fun r => { r with state := .retired d }) g)
        (.stockRetired e (g.stock.get e).received (g.stock.get e).issued (g.stock.get e).spoiled) := by
  simp only [engineStockRetire, working, index_val, fits, active]
  rfl

theorem engineStockRetire_inactive (working : isWorking g.service.state = true) (fits : q.fits = true)
    (inactive : ∀ d, (g.stock.get e).state ≠ .active d) :
    engineStockRetire q e.val g = refuse g .entry (.entryState (g.stock.get e).state) := by
  simp only [engineStockRetire, working, index_val, fits]
  cases state : (g.stock.get e).state with
  | active d => exact absurd state (inactive d)
  | _ => rfl

theorem engineStockCount_checked (working : isWorking g.service.state = true) (fits : q.fits = true)
    (range : n ≤ 99999999) : engineStockCount q e.val n g =
      if (g.stock.get e).state = .unused then refuse g .entry (.entryState (g.stock.get e).state)
      else accept (countShelf e n g) (.stockCounted e n (g.stock.get e).onHand (decide (n = (g.stock.get e).onHand))) := by
  have bound : maxCount = 99999999 := rfl
  simp only [engineStockCount, working, index_val]
  refine (if_neg (by decide)).trans (if_neg ?_)
  simp only [fits, Bool.true_eq_false, false_or]; omega

theorem engineStockClearMismatch_checked (working : isWorking g.service.state = true) (fits : q.fits = true) :
    engineStockClearMismatch q e.val g =
      accept (modStock e (fun r => { r with mismatch := false }) g) (.mismatchCleared e (g.stock.get e).mismatch) := by
  simp only [engineStockClearMismatch, working, index_val, fits]
  rfl

end Stock

/-- What makes a stock table request fail FORMAT. -/
abbrev StockBad (q : Req) (c : Instr) (entry n : Nat) : Prop :=
  q.fits = false ∨ 31 < entry ∨ (c = .stockDefine q entry n ∧ (n = 0 ∨ 99999 < n)) ∨
    (c = .stockCount q entry n ∧ 99999999 < n)

/-- The stock table requests look at the service state first, and then at the shape of the body and the entry's number. -/
theorem stockTable_opening {q : Req} {c : Instr} {entry n : Nat} {g : State}
    (request : c = .stockDefine q entry n ∨ c = .stockRetire q entry ∨ c = .stockCount q entry n ∨
      c = .stockClearMismatch q entry) :
    (isWorking g.service.state = false → engineOf c g = refuse g .state .none) ∧
    (isWorking g.service.state = true → StockBad q c entry n → engineOf c g = refuse g .format .none) := by
  have bound : maxCount = 99999999 := rfl
  refine ⟨fun idle => ?_, fun working bad => ?_⟩
  · rcases request with rfl | rfl | rfl | rfl <;>
      simp [engineOf, engineStockDefine, engineStockRetire, engineStockCount, engineStockClearMismatch, idle]
  · cases named : index 32 entry with
    | none =>
      rcases request with rfl | rfl | rfl | rfl <;>
        simp [engineOf, engineStockDefine, engineStockRetire, engineStockCount, engineStockClearMismatch, working, named]
    | some x =>
      have low : ¬31 < entry := by have := index_eq_some.1 named; omega
      rcases request with rfl | rfl | rfl | rfl
      all_goals simp only [StockBad, low, reduceCtorEq, false_and, false_or, or_false, true_and] at bad
      · simp only [engineOf, engineStockDefine, working, named]; exact if_pos bad
      · simp only [engineOf, engineStockRetire, working, named, bad]; rfl
      · simp only [engineOf, engineStockCount, working, named]; exact if_pos bad
      · simp only [engineOf, engineStockClearMismatch, working, named, bad]; rfl

/-- What a count of the shelf leaves (R99, R100). -/
theorem EngineKept.countShelf {q : Req} {g : State} (e : EntryNo) (k : Nat) :
    EngineKept [.stock, .raises] q g (countShelf e k g) := by
  simp only [Machine.countShelf]
  split
  · exact (EngineKept.modStock e _).mono (by decide)
  · exact (EngineKept.modStock e _).trans (.raise _ _)

theorem countShelf_stock (e : EntryNo) (k : Nat) (s : State) : (countShelf e k s).stock = s.stock.modify e fun r => { r with
    lastCounted := some (k, s.pool.day), mismatch := r.mismatch || decide (k ≠ r.onHand) } := by
  simp only [countShelf]
  split
  · rfl
  · rw [raiseSource_stock]; rfl

theorem countShelf_pending (e : EntryNo) (k : Nat) (s : State) (n : SourceNo) : (countShelf e k s).notices.pending.get n =
    if n = srcStockMismatch ∧ k ≠ (s.stock.get e).onHand then
      afterRaise srcStockMismatch (.stockMismatch e k (s.stock.get e).onHand s.pool.day) s
    else s.notices.pending.get n := by
  simp only [countShelf]
  split
  · rename_i same; rw [if_neg fun h => h.2 same]; rfl
  · rename_i differ
    simp only [raiseSource_pending, differ, ne_eq, not_false_eq_true, and_true]
    rfl

/-- Settles O20. -/
theorem stockTableRequests : Obligations.StockTableRequests := by
  refine ⟨fun q c entry n s request ready => ?order, fun q e s taken fits => ?applied⟩
  case order =>
    have header : requestHeader c = some q := by rcases request with rfl | rfl | rfl | rfl <;> rfl
    have plain : moneyCodes.contains (requestCode c) = false := by rcases request with rfl | rfl | rfl | rfl <;> rfl
    obtain ⟨t, ex, h⟩ := exec_concluded ready header
    obtain ⟨idle, misshapen⟩ := stockTable_opening (g := grant q.port s) request
    refine ⟨t, ex, h.tableChecks plain idle misshapen fun working good => ?_⟩
    rintro e rfl
    obtain ⟨fits, -, define, count⟩ : q.fits = true ∧ ¬31 < e.val ∧
        (c = .stockDefine q e.val n → 1 ≤ n ∧ n ≤ 99999) ∧ (c = .stockCount q e.val n → n ≤ 99999999) := by
      obtain ⟨fits, low, define, count⟩ : _ ∧ _ ∧ _ ∧ _ := by simpa only [not_or, not_and, Bool.not_eq_false] using good
      exact ⟨fits, low, fun e => by have := define e; omega, fun e => by have := count e; omega⟩
    refine ⟨?_, ?_, ?_, ?_⟩
    · rintro rfl
      have h := h.of_eq (engineStockDefine_checked working fits (define rfl))
      by_cases used : (s.stock.get e).state ≠ .unused
      · rw [if_pos used]
        exact reportsEntry_of ((h.of_eq (if_pos used)).plainRefused rfl)
      · rw [if_neg used]
        exact (h.of_eq (if_neg used)).answeredOk
    · rintro rfl
      exact ⟨fun inactive => reportsEntry_of ((h.of_eq (engineStockRetire_inactive working fits inactive)).plainRefused rfl),
        fun d active => (h.of_eq (engineStockRetire_active working fits active)).plainCheck rfl Iff.rfl fun _ h => h.answeredOk⟩
    · rintro rfl
      have h := h.of_eq (engineStockCount_checked working fits (count rfl))
      split
      · exact ⟨_, (h.of_eq (if_pos ‹_›)).plainRefused rfl⟩
      · exact (h.of_eq (if_neg ‹_›)).answeredOk
    · rintro rfl
      exact (h.of_eq (engineStockClearMismatch_checked working fits)).answeredOk
  case applied =>
    have working := (isWorking_iff _).2 taken
    refine ⟨fun d ready low high free => ?_, fun d ready active none_left => ?_, fun k ready high used => ?_, fun ready => ?_⟩
    · obtain ⟨t, ex, h⟩ := exec_concluded ready rfl
      obtain ⟨armed, r, et, answered⟩ := ((h.of_eq (engineStockDefine_checked working fits ⟨low, high⟩)).of_eq
        (if_neg (not_not.2 free))).ok rfl (.modStock e _)
      exact ⟨t, ex, answered, by rw [et]; rfl⟩
    · obtain ⟨t, ex, h⟩ := exec_concluded ready rfl
      obtain ⟨armed, r, et, answered⟩ := ((h.of_eq (engineStockRetire_active working fits active)).of_eq
        (if_neg (not_not.2 none_left))).ok rfl (.modStock e _)
      exact ⟨t, ex, answered, by rw [et]; rfl⟩
    · obtain ⟨t, ex, h⟩ := exec_concluded ready rfl
      obtain ⟨armed, r, et, answered⟩ := ((h.of_eq (engineStockCount_checked working fits high)).of_eq (if_neg used)).ok rfl
        (.countShelf e k)
      have other : srcStockMismatch ≠ srcLowCredit := by decide
      refine ⟨t, ex, answered, by rw [et, concluded_stock]; exact countShelf_stock e k _, fun n hn => ?_, ?_⟩
      · obtain ⟨mismatch, credit⟩ : n ≠ srcStockMismatch ∧ n ≠ srcLowCredit := by simpa using hn
        rw [et, concluded_pending credit]
        exact (countShelf_pending e k _ n).trans (if_neg fun h => mismatch h.1)
      · rw [et, concluded_pending other]
        refine (countShelf_pending e k _ _).trans ?_
        by_cases same : k = (s.stock.get e).onHand <;> simp [same]
    · obtain ⟨t, ex, h⟩ := exec_concluded ready rfl
      obtain ⟨armed, r, et, answered⟩ := (h.of_eq (engineStockClearMismatch_checked working fits)).ok rfl (.modStock e _)
      exact ⟨t, ex, answered, by rw [et]; rfl⟩

/-! ### The watch channels (R130 to R134, R141) -/

theorem isLoaded_iff (ch : Channel) : isLoaded ch = true ↔ ch.state = .waiting ∨ ch.state = .running := by
  simp [isLoaded]

section Watch
variable {q : Req} {c : ChannelNo} {f : ControlFields} {op : Coded WatchOp} {g : State}

theorem engineWatchSet_checked (working : isWorking g.service.state = true) (fits : q.fits = true)
    (own : channelPort c = q.port) : engineWatchSet q c.val f op g = match controlsOf f, operationOf op with
      | some f, some o => accept (setChannel c (programChannel f o (g.channels.get c)) g)
          (.watchSet c (channelReport (programChannel f o (g.channels.get c))) (appliedOp o (g.channels.get c)))
      | _, _ => refuse g .format .none := by
  simp only [engineWatchSet, working, index_val, fits]
  exact if_neg (not_not.2 own)

theorem engineWatchRelease_checked (working : isWorking g.service.state = true) (fits : q.fits = true)
    (own : channelPort c = q.port) :
    engineWatchRelease q c.val g = accept (releaseChannel c g) (.watchReleased c (heldHeads c g)) := by
  simp only [engineWatchRelease, working, index_val, fits]
  exact if_neg (not_not.2 own)

end Watch

/-- The checks that WATCH_SET and WATCH_RELEASE share: the state, the channel and the body, and the channel's port (R130). -/
theorem watch_opening {q : Req} {i : Instr} {channel : Nat} {f : ControlFields} {op : Coded WatchOp} {g : State}
    (request : i = .watchSet q channel f op ∨ i = .watchRelease q channel) :
    (isWorking g.service.state = false → engineOf i g = refuse g .state .none) ∧
    (isWorking g.service.state = true → 7 < channel ∨ q.fits = false → engineOf i g = refuse g .format .none) ∧
    (isWorking g.service.state = true → q.fits = true → ∀ c : ChannelNo, c.val = channel → channelPort c ≠ q.port →
      engineOf i g = refuse g .notOwner .none) := by
  refine ⟨fun idle => ?_, fun working bad => ?_, fun working fits c number other => ?_⟩
  · rcases request with rfl | rfl <;> simp [engineOf, engineWatchSet, engineWatchRelease, idle]
  · cases named : index 8 channel with
    | none => rcases request with rfl | rfl <;> simp [engineOf, engineWatchSet, engineWatchRelease, working, named]
    | some x =>
      have unfit : q.fits = false := bad.resolve_left (by have := index_eq_some.1 named; omega)
      rcases request with rfl | rfl <;> simp [engineOf, engineWatchSet, engineWatchRelease, working, named, unfit]
  · subst number
    rcases request with rfl | rfl <;> simp [engineOf, engineWatchSet, engineWatchRelease, working, fits, other]

/-- What WATCH_SET makes of a channel (R131 to R133), with the operation that it reports (R134). -/
theorem programChannel_spec (g : Controls) (op : WatchOp) (old : Channel) :
    (let new := programChannel g op old
     let counting := old.state = .waiting ∨ old.state = .running
     let ap := appliedOp op old
     new.headMask = g.headMask ∧ new.start = g.start ∧ new.action = g.action ∧ new.inhibitMask = g.inhibitMask ∧
     (∀ n, op = .load n → ¬counting →
       new = { old with
         source := g.source, headMask := g.headMask, prescale := g.prescale, start := g.start, action := g.action
         inhibitMask := g.inhibitMask, heldSource := none, heldPrescale := none, pendingReload := none
         reload := if n = 0 then 65536 else n, count := if n = 0 then 65536 else n, prescaleCount := 0
         state := if g.start = .auto then .running else .waiting } ∧ ap = .loaded) ∧
     (counting → op ≠ .stop →
       new = { old with
         headMask := g.headMask, start := g.start, action := g.action, inhibitMask := g.inhibitMask
         pendingReload := new.pendingReload
         heldSource := if g.source = old.source then none else some g.source
         heldPrescale := if g.prescale = old.prescale then none else some g.prescale }) ∧
     (∀ n, op = .load n → counting → new.pendingReload = some (if n = 0 then 65536 else n) ∧ ap = .pending) ∧
     (op = .none → new.pendingReload = old.pendingReload ∧ ap = .none) ∧
     (op = .stop ∨ (op = .none ∧ ¬counting) →
       new = { old with
         source := g.source, headMask := g.headMask, prescale := g.prescale, start := g.start, action := g.action
         inhibitMask := g.inhibitMask, heldSource := none, heldPrescale := none
         pendingReload := new.pendingReload, state := new.state }) ∧
     (op = .stop → new.pendingReload = none ∧ ap = .stop ∧
       new.state = if old.state = .unloaded then .unloaded else .stopped) ∧
     (op = .none → new.state = old.state)) := by
  by_cases counting : old.state = .waiting ∨ old.state = .running
  · have loaded := (isLoaded_iff old).2 counting
    cases op with
    | load n => simp [programChannel, appliedOp, loaded, counting, holdControls, reloadOf]
    | stop => simp [programChannel, appliedOp, stopChannel, writeControls]
    | none => simp [programChannel, appliedOp, loaded, counting, holdControls]
  · have loaded := Bool.eq_false_iff.2 (mt (isLoaded_iff old).1 counting)
    cases op with
    | load n =>
      cases starts : g.start <;>
        simp [programChannel, appliedOp, loaded, counting, loadChannel, writeControls, reloadOf, starts]
    | stop => simp [programChannel, appliedOp, stopChannel, writeControls]
    | none => simp [programChannel, appliedOp, loaded, counting, writeControls]

theorem EngineKept.releaseChannel {q : Req} {g : State} (c : ChannelNo) :
    EngineKept [.inhibits] q g (releaseChannel c g) := by
  refine ⟨links_same q g, rfl, rfl, rfl, rfl, fun part hp => ?_⟩
  cases part with
  | inhibits => simp at hp
  | heads => exact fun h => by simp [Machine.releaseChannel]
  | stack | nesting | holds => exact fun _ => rfl
  | raises => exact fun _ _ => rfl
  | _ => rfl

/-- Settles O21. -/
theorem watchRequests : Obligations.WatchRequests := by
  refine ⟨fun q i channel f op s request ready => ?order, fun q c s taken fits own => ⟨fun f g op ready carries reload => ?set,
    fun ready => ?release⟩⟩
  case order =>
    have header : requestHeader i = some q := by rcases request with rfl | rfl <;> rfl
    have plain : moneyCodes.contains (requestCode i) = false := by rcases request with rfl | rfl <;> rfl
    obtain ⟨t, ex, h⟩ := exec_concluded ready header
    obtain ⟨idle, misshapen, foreign⟩ := watch_opening (g := grant q.port s) request
    refine ⟨t, ex, h.tableChecks plain idle misshapen fun working good => ?_⟩
    obtain ⟨low, fits⟩ := not_or.1 good
    obtain ⟨c, rfl⟩ : ∃ c : ChannelNo, c.val = channel := ⟨⟨channel, by omega⟩, rfl⟩
    have fits : q.fits = true := by simpa using fits
    by_cases own : q.port = if c.val < 4 then 7 else 6
    case neg =>
      rw [if_pos own]
      exact (h.of_eq (foreign working fits c rfl (Ne.symm own))).plainRefused plain
    case pos =>
      rw [if_neg (not_not.2 own)]
      have own : channelPort c = q.port := own.symm
      rcases request with rfl | rfl
      · have h := h.of_eq (engineWatchSet_checked working fits own)
        refine ⟨fun bad => ?_, fun good => ?_⟩
        · have refuses := (fieldsRefused_iff f op).1 bad.2
          cases controls : controlsOf f with
          | none => rw [controls] at h; exact h.plainRefused rfl
          | some g =>
            rw [controls, refuses.resolve_left (by simp [controls])] at h
            exact h.plainRefused rfl
        · obtain ⟨controls, operation⟩ := not_or.1 (mt (fieldsRefused_iff f op).2 fun bad => good ⟨rfl, bad⟩)
          obtain ⟨g, named⟩ := Option.ne_none_iff_exists'.1 controls
          obtain ⟨o, known⟩ := Option.ne_none_iff_exists'.1 operation
          rw [named, known] at h
          exact h.answeredOk
      · exact ⟨fun bad => (nomatch bad.1), fun _ => (h.of_eq (engineWatchRelease_checked working fits own)).answeredOk⟩
  case set =>
    obtain ⟨t, ex, h⟩ := exec_concluded ready rfl
    have operation : operationOf (.known op) = some op := by
      cases op with
      | load n => exact if_neg (Nat.not_lt.2 (reload n rfl))
      | _ => rfl
    have h := h.of_eq (engineWatchSet_checked ((isWorking_iff _).2 taken) fits own.symm)
    rw [controlsOf_carries carries, operation] at h
    obtain ⟨armed, r, et, answered⟩ := h.ok rfl (.setChannel c _)
    have channels : t.channels = s.channels.set c (programChannel g op (s.channels.get c)) := by rw [et]; rfl
    have new : t.channels.get c = programChannel g op (s.channels.get c) := by rw [channels, Tab.get_set_self]
    refine ⟨t, appliedOp op (s.channels.get c), ex, ?_⟩
    dsimp only
    rw [new]
    exact ⟨answered, fun k hk => by rw [channels, Tab.get_set_ne _ _ hk], programChannel_spec g op _⟩
  case release =>
    obtain ⟨t, ex, h⟩ := exec_concluded ready rfl
    obtain ⟨armed, r, et, answered⟩ :=
      (h.of_eq (engineWatchRelease_checked ((isWorking_iff _).2 taken) fits own.symm)).ok rfl (.releaseChannel c)
    refine ⟨t, ex, answered, fun h k => ?_⟩
    rw [et, concluded_heads]
    change (((s.heads.map fun h => { h with inhibitHolders := h.inhibitHolders.set c false }).get h).inhibitHolders).get k = _
    rw [Tab.get_map, Tab.get_set]

end Sys2Proof.Machine
end

section
/-! COMPARE (R34 to R36). -/

namespace Sys2Proof.Machine

open Sys2Proof.Config Sys2Proof.Safety

/-! ### The figures of a side (R35) -/

theorem leastOf_spec {xs : List Nat} (h : xs ≠ []) : leastOf xs ∈ xs ∧ ∀ x ∈ xs, leastOf xs ≤ x := by
  cases xs with
  | nil => exact absurd rfl h
  | cons x xs => exact List.min?_eq_some_iff.1 List.min?_cons'

theorem greatestOf_spec {xs : List Nat} (h : xs ≠ []) : greatestOf xs ∈ xs ∧ ∀ x ∈ xs, x ≤ greatestOf xs := by
  cases xs with
  | nil => exact absurd rfl h
  | cons x xs =>
    have first : greatestOf (x :: xs) = xs.foldl max x := by simp [greatestOf]
    rw [first]
    exact List.max?_eq_some_iff.1 List.max?_cons'

/-- The least and the greatest charge of a side bound its charges and are among them. -/
theorem sideResult_bounds (l : Lane) {rs : List Nat} (filled : rs ≠ []) :
    (∀ r ∈ rs, (sideResult l rs).least ≤ (workLane l l.pieces r).charge ∧
      (workLane l l.pieces r).charge ≤ (sideResult l rs).greatest) ∧
    (∃ r ∈ rs, (sideResult l rs).least = (workLane l l.pieces r).charge) ∧
    ∃ r ∈ rs, (sideResult l rs).greatest = (workLane l l.pieces r).charge := by
  have charges : sideCharges l rs ≠ [] := by simpa [sideCharges] using filled
  obtain ⟨least, below⟩ := leastOf_spec charges
  obtain ⟨greatest, above⟩ := greatestOf_spec charges
  have charged : ∀ r ∈ rs, (workLane l l.pieces r).charge ∈ sideCharges l rs := fun r hr => List.mem_map_of_mem hr
  refine ⟨fun r hr => ⟨below _ (charged r hr), above _ (charged r hr)⟩, ?_, ?_⟩
  · obtain ⟨r, hr, e⟩ := List.mem_map.1 least
    exact ⟨r, hr, e.symm⟩
  · obtain ⟨r, hr, e⟩ := List.mem_map.1 greatest
    exact ⟨r, hr, e.symm⟩

/-- The ordering of two sides over a set of residues that is not empty (R36). -/
theorem compareCharges_iff (f g : Nat → Nat) {rs : List Nat} (filled : rs ≠ []) :
    (compareCharges (rs.map f) (rs.map g) = .less ↔ ∀ r ∈ rs, f r < g r) ∧
    (compareCharges (rs.map f) (rs.map g) = .greater ↔ ∀ r ∈ rs, g r < f r) ∧
    (compareCharges (rs.map f) (rs.map g) = .equal ↔ ∀ r ∈ rs, f r = g r) := by
  obtain ⟨r, hr⟩ := List.exists_mem_of_ne_nil rs filled
  simp only [compareCharges, List.zip_map', List.all_map, List.all_eq_true, Function.comp_apply, decide_eq_true_eq]
  by_cases less : ∀ r ∈ rs, f r < g r
  · have := less r hr
    rw [if_pos less]
    exact ⟨by simpa using less, by simpa using ⟨r, hr, this.le⟩, by simpa using ⟨r, hr, this.ne⟩⟩
  rw [if_neg less]
  by_cases greater : ∀ r ∈ rs, g r < f r
  · have := greater r hr
    rw [if_pos greater]
    exact ⟨by simpa using less, by simpa using greater, by simpa using ⟨r, hr, this.ne'⟩⟩
  rw [if_neg greater]
  by_cases equal : ∀ r ∈ rs, f r = g r
  · rw [if_pos equal]
    exact ⟨by simpa using less, by simpa using greater, by simpa using equal⟩
  · rw [if_neg equal]
    exact ⟨by simpa using less, by simpa using greater, by simpa using equal⟩

/-! ### The checks (R34) -/

theorem lanePartBad_iff (cls pieces : Nat) : lanePartBad cls pieces = true ↔ 63 < cls ∨ pieces = 0 ∨ 9999 < pieces := by
  have bound : maxPieces = 9999 := rfl
  simp [lanePartBad, bound, or_assoc]

/-- A residue choice is applied unless it fails its format check (R34). -/
theorem applyResidue_eq_none (p : Port) (s : State) (residue : ResidueChoice) : applyResidue p s residue = none ↔
    residue = .unrecognised ∨ (∃ r, residue = .value r ∧ 9 < r) ∨ (residue = .own ∧ portHead p = none) := by
  cases residue <;> simp [applyResidue]

/-- The format checks of a COMPARE that do not need its residue choice. -/
theorem compareBad_iff (q : Req) (x y pieces : Nat) : (!q.fits || lanePartBad x pieces || lanePartBad y pieces) = true ↔
    q.fits = false ∨ 63 < x ∨ 63 < y ∨ pieces = 0 ∨ 9999 < pieces := by
  simp only [Bool.or_eq_true, lanePartBad_iff, Bool.not_eq_true']
  tauto

/-- A COMPARE that passes its format checks prices both sides. -/
theorem engineCompare_priced {q : Req} {x y : ClassNo} {pieces : Nat} {residue : ResidueChoice} {choice : AppliedResidue}
    {g : State} (fits : q.fits = true) (range : 1 ≤ pieces ∧ pieces ≤ 9999)
    (applied : applyResidue q.port g residue = some choice) : engineCompare q x.val y.val pieces residue g =
      match priceLane g.rates x pieces, priceLane g.rates y pieces with
      | .error c, _ => refuse g c (.side .a)
      | .ok _, .error c => refuse g c (.side .b)
      | .ok lx, .ok ly => accept g (.compared (sideResult lx (residueSet choice)) (sideResult ly (residueSet choice))
          (compareCharges (sideCharges lx (residueSet choice)) (sideCharges ly (residueSet choice))) choice) := by
  have good : ¬(!q.fits || lanePartBad x.val pieces || lanePartBad y.val pieces) = true := by
    rw [compareBad_iff, fits]; simp; omega
  simp only [engineCompare, if_neg good, applied, classOf_val]
  cases priceLane g.rates x pieces with
  | error c => rfl
  | ok lx => cases priceLane g.rates y pieces <;> rfl

/-- Settles O12. -/
theorem compareReply : Obligations.CompareReply := by
  refine ⟨fun q x y pieces residue s ready => ?order, fun q x y pieces residue applied rs lx ly s ready fits low high choice
    px py => ?ordered⟩
  case order =>
    obtain ⟨t, ex, h⟩ := exec_concluded ready rfl
    refine ⟨t, ex, fun bad => ?_, fun good cx cy => ?_⟩
    · have refuses : engineCompare q x y pieces residue (grant q.port s) = refuse (grant q.port s) .format .none := by
        unfold engineCompare
        split
        · rfl
        · rename_i good
          have unapplied : applyResidue q.port (grant q.port s) residue = none := by
            rw [applyResidue_eq_none]
            have := mt (compareBad_iff q x y pieces).2 good
            generalize (∃ r, residue = ResidueChoice.value r ∧ 9 < r) = large at bad ⊢
            tauto
          rw [unapplied]
      exact (h.of_eq refuses).plainRefused rfl
    · rintro rfl rfl
      have sound := mt (applyResidue_eq_none q.port (grant q.port s) residue).1
      obtain ⟨choice, chosen⟩ := Option.ne_none_iff_exists'.1 (sound fun bad => good (.inr (.inr (.inr (.inr (.inr bad))))))
      have shaped : q.fits = true ∧ 1 ≤ pieces ∧ pieces ≤ 9999 := by
        simp only [not_or, Bool.not_eq_false] at good
        exact ⟨good.1, by omega⟩
      have h := h.of_eq (engineCompare_priced shaped.1 shaped.2 chosen)
      simp only [grant_rates] at h
      cases px : priceLane s.rates cx pieces with
      | error c => rw [px] at h; exact h.plainRefused rfl
      | ok lx =>
        cases py : priceLane s.rates cy pieces with
        | error c => rw [px, py] at h; exact h.plainRefused rfl
        | ok ly => rw [px, py] at h; exact h.answeredOk
  case ordered =>
    obtain ⟨chosen, rfl, filled⟩ : applyResidue q.port (grant q.port s) residue = some applied ∧ rs = residueSet applied ∧
        rs ≠ [] := by
      rcases choice with ⟨rfl, rfl, rfl⟩ | ⟨r, small, rfl, rfl, rfl⟩ | ⟨x, r, own, rfl, rfl, rfl, rfl⟩
      · exact ⟨rfl, rfl, by decide⟩
      · exact ⟨if_pos small, rfl, List.cons_ne_nil _ _⟩
      · exact ⟨by simp [applyResidue, own], rfl, List.cons_ne_nil _ _⟩
    obtain ⟨t, ex, h⟩ := exec_concluded ready rfl
    have h := h.of_eq (engineCompare_priced fits ⟨low, high⟩ chosen)
    simp only [grant_rates, px, py] at h
    obtain ⟨less, greater, equal⟩ := compareCharges_iff (fun r => (workLane lx lx.pieces r).charge)
      (fun r => (workLane ly ly.pieces r).charge) filled
    obtain ⟨boundX, leastX, greatestX⟩ := sideResult_bounds lx filled
    obtain ⟨boundY, leastY, greatestY⟩ := sideResult_bounds ly filled
    obtain rfl := (priceLane_ok px).2
    have same := (priceLane_ok py).2
    rw [same] at greater less equal boundY leastY greatestY
    exact ⟨t, _, _, _, ex, h.read rfl, rfl, by rw [← same]; rfl, rfl, rfl, boundX, boundY, leastX, greatestX, leastY, greatestY,
      by simpa only [sideCharges, same] using less, by simpa only [sideCharges, same] using greater,
      by simpa only [sideCharges, same] using equal⟩

end Sys2Proof.Machine
end

section
/-! RESERVE, COMMIT and CANCEL: their check orders and the movements of the accepted ones (chapter 3). -/

namespace Sys2Proof.Machine

open Sys2Proof.Config Sys2Proof.Safety

/-! ### What the evaluation of a movement leaves (R113) -/

section Evaluated
variable {c : Instr} {q : Req} {s t u : State} {a : Answer} {armed : Bool} {r : Option Raised}

/-- A request whose answer evaluates near-full on `u`, where `u` has near-full armed and the pending set of `s`. -/
theorem nearFull_concluded (et : t = concluded c q a armed r) (audit : a.state.audit = (evaluateNearFull u).audit)
    (notices : a.state.notices = (evaluateNearFull u).notices) (same : u.audit.nearFullArmed = s.audit.nearFullArmed)
    (pending : u.notices.pending = s.notices.pending) : NearFullEvaluated s t ∧ RaisesOnly [srcLowCredit, srcNearFull] s t := by
  have auditT : t.audit = (evaluateNearFull u).audit := by rw [et, concluded_audit, audit]
  have pendingT : ∀ n, n ≠ srcLowCredit → t.notices.pending.get n = (evaluateNearFull u).notices.pending.get n :=
    fun n hn => by rw [et, concluded_pending hn, notices]
  refine ⟨nearFullEvaluated same (by rw [pending]) (by rw [auditT, evaluateNearFull_journal])
    (by rw [auditT, evaluateNearFull_claimed]) (by rw [auditT]) (pendingT _ (by decide)), fun n hn => ?_⟩
  obtain ⟨credit, full⟩ : n ≠ srcLowCredit ∧ n ≠ srcNearFull := by simpa using hn
  rw [pendingT n credit, evaluateNearFull_pending _ full, pending]

end Evaluated

theorem not_mem_watchSources {n : SourceNo} {others : List SourceNo} :
    n ∉ watchSources others ↔ n ∉ watchSources [] ∧ n ∉ others := by
  simp [watchSources, not_or, and_assoc]

/-- One change after another, the last one first: so the whole change is known before its parts. -/
theorem EngineKept.after {changed others : List Part} {q : Req} {g u t : State} (k : EngineKept others q u t)
    (h : EngineKept changed q g u) : EngineKept (changed ++ others) q g t := h.trans k

/-! ### RESERVE (R41 to R44) -/

theorem reserveBad_iff (b : ReserveBody) : reserveBad b = true ↔
    (b.groups ≠ 2 ∧ b.groups ≠ 3) ∨ (b.laneCount ≠ 1 ∧ b.laneCount ≠ 2) ∨ (b.laneCount = 1 ∧ b.groups = 3) ∨
      (b.laneCount = 2 ∧ b.groups ≠ 3) ∨ (63 < b.classA ∨ b.piecesA = 0 ∨ 9999 < b.piecesA) ∨
      (b.groups = 3 ∧ (63 < b.classB ∨ b.piecesB = 0 ∨ 9999 < b.piecesB)) := by
  simp only [reserveBad, Bool.or_eq_true, Bool.and_eq_true, decide_eq_true_eq, lanePartBad_iff, or_assoc]

theorem capExceeded_iff (r : HeadRecord) (total : Nat) : capExceeded r total = true ↔
    ∃ c, r.dailyCap = some c ∧ c < r.usedToday + r.headReserved + total := by
  cases e : r.dailyCap <;> simp [capExceeded, e]

theorem held_iff (r : HeadRecord) : (!noHolders r) = true ↔ ∃ c, r.inhibitHolders.get c = true := by
  rw [Bool.not_eq_true', Bool.eq_false_iff, ne_eq, noHolders_iff]
  simp

theorem slots_full_iff (s : State) : s.slots.first Option.isNone = none ↔ ∀ k, (s.slots.get k).isSome = true := by
  rw [Tab.first_eq_none]
  exact forall_congr' fun k => by cases s.slots.get k <;> simp

theorem engineReserve_own {q : Req} {h : Head} (own : portHead q.port = some h) (b : ReserveBody) (g : State) :
    engineOf (.reserve q b) g = reserveFor h b g := by
  simp [engineOf, engineReserve, own]

/-- Settles O29: the checks of `reserveFor`, one after another. -/
theorem reserveRefusalOrder : Obligations.ReserveRefusalOrder := by
  intro q b x s ready own
  obtain ⟨t, ex, h⟩ := exec_concluded ready rfl
  have head : flagHead (.reserve q b) q.port = some x := own
  rw [engineReserve_own own] at h
  refine ⟨t, ex, h.moneyCheck rfl head Iff.rfl fun _ h => h.moneyCheck rfl head (by simp) fun _ h =>
    h.moneyCheck rfl head (held_iff _) fun _ h => h.moneyCheck rfl head (reserveBad_iff b) fun _ h => ?_⟩
  rw [grant_rates] at h
  cases priced : priceLanes s.rates b with
  | error e =>
    rw [priced] at h
    exact head ▸ h.moneyRefused rfl
  | ok lanes =>
    rw [priced] at h
    refine h.moneyCheck rfl head Iff.rfl fun _ h => ?_
    rw [grant_slots] at h
    cases free : s.slots.first Option.isNone with
    | none =>
      rw [free] at h
      rw [if_pos ((slots_full_iff s).1 free)]
      exact head ▸ h.moneyRefused rfl
    | some k =>
      rw [free] at h
      rw [if_neg (mt (slots_full_iff s).2 (by simp [free]))]
      exact h.moneyCheck rfl head (journalFree_eq_zero _) fun _ h => h.moneyCheck rfl head Iff.rfl fun _ h =>
        h.moneyCheck rfl head Iff.rfl fun _ h => h.moneyCheck rfl head (capExceeded_iff _ _) fun _ h => h.answeredOk

theorem EngineKept.openRecord {q : Req} {g : State} (k : SlotNo) (o : OpenImprint) :
    EngineKept [.pool, .heads, .slots, .audit, .raises] q g (openRecord k o g) := by
  unfold Machine.openRecord takeClaim
  exact EngineKept.mono (.after .evaluateNearFull (.after (.modAudit _) (.after (.setSlot k _)
    (.after (.modHead fun _ => rfl) (.modPool _))))) (by decide)

/-- Settles O30. -/
theorem reserveOpensRecord : Obligations.ReserveOpensRecord := by
  intro q b x lanes k s ready own inService enabled free layout classA low high priced limit slot before room funds asc cap
  obtain ⟨t, ex, h⟩ := exec_concluded ready rfl
  have sound : ¬reserveBad b = true := by rw [reserveBad_iff]; omega
  have first : s.slots.first Option.isNone = some k := Tab.first_eq_some.2
    ⟨by rw [slot]; rfl, fun j hj => by obtain ⟨o, e⟩ := Option.isSome_iff_exists.1 (before j hj); rw [e]; rfl⟩
  have open_ : ¬journalFree (grant q.port s) = 0 := by rw [journalFree_eq_zero]; simpa using room
  have uncapped : ¬capExceeded (s.heads.get x) (totalReserve lanes.1 lanes.2) = true := by
    rw [capExceeded_iff]; rintro ⟨c, e, exceeds⟩; exact absurd (cap c e) (Nat.not_le.2 exceeds)
  have accepts : engineOf (.reserve q b) (grant q.port s) =
      accept (openRecord k (newRecord x lanes.1 lanes.2 (grant q.port s)) (grant q.port s))
        (.reserved (newRecord x lanes.1 lanes.2 (grant q.port s)).tag (s.heads.get x).imprintNumber lanes.1.reserve
          (lanes.2.map Lane.reserve) (totalReserve lanes.1 lanes.2) (s.heads.get x).holdTime) := by
    rw [engineReserve_own own]
    refine (if_neg (not_not.2 inService)).trans ((if_neg (by simp [enabled])).trans ((if_neg ?_).trans ((if_neg sound).trans ?_)))
    · simp [(noHolders_iff _).2 free]
    rw [grant_rates, priced]
    refine (if_neg (Nat.not_le.2 limit)).trans ?_
    rw [grant_slots, first]
    exact (if_neg open_).trans ((if_neg (Nat.not_lt.2 funds)).trans ((if_neg (Nat.not_lt.2 asc)).trans (if_neg uncapped)))
  have head : flagHead (.reserve q b) q.port = some x := own
  obtain ⟨armed, r, et, answered⟩ := (h.of_eq accepts).okMoney rfl (.openRecord k _)
  obtain ⟨a, r', opened, -⟩ := openRecord_eq k (newRecord x lanes.1 lanes.2 (grant q.port s)) (grant q.port s)
  obtain ⟨nearFull, raises⟩ := nearFull_concluded (s := s) et rfl rfl rfl rfl
  obtain ⟨i, -, value, passed, -⟩ := chooseTag_spec (openTags s) 17 s.pool.nextTag
  rw [head] at answered
  refine ⟨t, newRecord x lanes.1 lanes.2 (grant q.port s), ex, answered, rfl, fun j o' held same => ?_, ⟨i, value, fun i' hi => ?_⟩,
    ?_, ?_, ?_, ?_, nearFull, raises⟩
  · exact chooseTag_not_mem s s.pool.nextTag (mem_openTags.2 ⟨j, o', held, same⟩)
  · exact mem_openTags.1 (passed i' hi)
  · rw [et, concluded_slots]; exact congrArg State.slots opened
  · rw [et, concluded_pool]; simp [opened, tagAfter]
  · rw [et, concluded_heads]; exact congrArg State.heads opened
  · rw [et, concluded_audit]; simp [opened, tagAfter]

/-! ### A tag that no open record holds (R46) -/

theorem findTag_eq_none {tag : Nat} {s : State} (h : ∀ k o, s.slots.get k = some o → o.tag ≠ tag) : findTag tag s = none := by
  refine Option.eq_none_iff_forall_ne_some.2 fun found e => ?_
  obtain ⟨held, same⟩ := findTag_eq_some (k := found.1) (o := found.2) e
  exact h _ _ held same

theorem findTag_of_names {tag : Nat} {k : SlotNo} {o : OpenImprint} {s : State} (h : Names tag k o s) :
    findTag tag s = some (k, o) :=
  findTag_of_first h.1 h.2.1 h.2.2

/-- A tag that no open record holds is answered from the head's ring (R46). -/
theorem Concluded.fromRing {c : Instr} {q : Req} {x : Head} {tag : Nat} {s t : State}
    (h : Concluded c q s t (answerFromRing x tag (grant q.port s))) (money : moneyCodes.contains (requestCode c) = true)
    (head : flagHead c q.port = some x) : RefusedFromRing x tag s (MoneyRefused q (some x) s t) := by
  unfold answerFromRing at h
  rw [grant_heads] at h
  refine ⟨fun i kind here newest => ?_, fun absent => ?_⟩
  · have found : (s.heads.get x).ring.find? (fun e => decide (e.1 = tag)) = some (tag, kind) := by
      obtain ⟨hi, e⟩ := List.getElem?_eq_some_iff.1 here
      refine List.find?_eq_some_iff_getElem.2 ⟨by simp, i, hi, e, fun j hj => ?_⟩
      have other := newest j
      rw [List.getElem?_eq_getElem (hj.trans hi)] at other
      simp only [Bool.not_eq_true', decide_eq_false_iff_not]
      exact fun same => other _ hj (congrArg some (Prod.ext same rfl))
    rw [found] at h
    exact head ▸ h.moneyRefused money
  · have none_ : (s.heads.get x).ring.find? (fun e => decide (e.1 = tag)) = none := by
      refine List.find?_eq_none.2 fun e he same => ?_
      obtain rfl := of_decide_eq_true same
      exact absent e.2 he
    rw [none_] at h
    exact head ▸ h.moneyRefused money

/-! ### CANCEL (R50) -/

theorem engineCancel_own {q : Req} {h : Head} (own : portHead q.port = some h) (tag : Nat) (g : State) :
    engineOf (.cancel q tag) g = cancelFor h q.fits tag g := by
  simp [engineOf, engineCancel, own]

theorem EngineKept.cancelRecord {q : Req} {g : State} (k : SlotNo) (o : OpenImprint) :
    EngineKept [.pool, .heads, .slots, .audit, .raises] q g (cancelRecord k o g) := by
  unfold Machine.cancelRecord releaseClaim
  exact EngineKept.mono (.after .evaluateNearFull (.after (.modAudit _) (.after (.setSlot k _)
    (.after (.modHead fun _ => rfl) (.modPool _))))) (by decide)

/-- Settles O32. -/
theorem cancelReturnsReserve : Obligations.CancelReturnsReserve := by
  refine ⟨fun q tag x s ready own => ?order, fun q tag x k o s ready own present fits tagged held same first mine => ?cancelled⟩
  case order =>
    obtain ⟨t, ex, h⟩ := exec_concluded ready rfl
    have head : flagHead (.cancel q tag) q.port = some x := own
    rw [engineCancel_own own] at h
    refine ⟨t, ex, h.moneyCheck rfl head Iff.rfl fun _ h => h.moneyCheck rfl head (by simp) fun _ h =>
      ⟨fun absent => ?_, fun k o names => ?_⟩⟩
    · rw [show findTag tag (grant q.port s) = none from findTag_eq_none absent] at h
      exact h.fromRing rfl head
    · rw [show findTag tag (grant q.port s) = some (k, o) from findTag_of_names names] at h
      exact h.moneyCheck rfl head Iff.rfl fun _ h => h.answeredOk
  case cancelled =>
    obtain ⟨t, ex, h⟩ := exec_concluded ready rfl
    have head : flagHead (.cancel q tag) q.port = some x := own
    have accepts : engineOf (.cancel q tag) (grant q.port s) =
        accept (cancelRecord k o (grant q.port s)) (.cancelled o.tag o.imprintNumber o.total) := by
      rw [engineCancel_own own]
      refine (if_neg present).trans ((if_neg (by simp [fits, tagged])).trans ?_)
      rw [show findTag tag (grant q.port s) = some (k, o) from findTag_of_first held same first]
      exact if_neg (not_not.2 mine)
    obtain ⟨armed, r, et, answered⟩ := (h.of_eq accepts).okMoney rfl (.cancelRecord k o)
    obtain ⟨a, r', done, -⟩ := cancelRecord_eq k o (grant q.port s)
    obtain ⟨nearFull, raises⟩ := nearFull_concluded (s := s) et rfl rfl rfl rfl
    rw [head, same] at answered
    subst mine same
    refine ⟨t, ex, answered, ?_, ?_, ?_, ?_, nearFull, raises⟩
    · rw [et, concluded_pool]; simp [done]
    · rw [et, concluded_slots]; exact congrArg State.slots done
    · rw [et, concluded_heads]; exact congrArg State.heads done
    · rw [et, concluded_audit]; simp [done]

/-! ### COMMIT (R45 to R49) -/

theorem commitBad_iff (b : CommitBody) : commitBad b = true ↔
    b.tag = 0 ∨ 9999 < b.piecesA ∨ (b.groups = 3 ∧ 9999 < b.piecesB) ∨ (b.groups ≠ 2 ∧ b.groups ≠ 3) := by
  have bound : maxPieces = 9999 := rfl
  simp only [commitBad, Bool.or_eq_true, Bool.and_eq_true, decide_eq_true_eq, bound, or_assoc]

theorem engineCommit_own {q : Req} {h : Head} (own : portHead q.port = some h) (b : CommitBody) (g : State) :
    engineOf (.commit q b) g = commitFor h b g := by
  simp [engineOf, engineCommit, own]

/-- The lanes of a record are those of a COMMIT (R47). -/
theorem lanesDiffer_iff (o : OpenImprint) (b : CommitBody) :
    o.laneB.isSome ≠ decide (b.groups = 3) ↔ ¬(o.laneB.isSome = true ↔ b.groups = 3) := by
  by_cases three : b.groups = 3 <;> simp [three]

theorem exceedsB_iff (o : OpenImprint) (b : CommitBody) : (o.laneB.map Lane.pieces).getD 0 < commitPiecesB o b ↔
    ∃ l, o.laneB = some l ∧ l.pieces < b.piecesB := by
  cases e : o.laneB <;> simp [commitPiecesB, e]

theorem EngineKept.settle {q : Req} {g : State} (k : SlotNo) (o : OpenImprint) (kind : ClosureKind) (entry : EntryKind)
    (charge pieces residue : Nat) :
    EngineKept [.pool, .heads, .slots, .audit] q g (settle k o kind entry charge pieces residue g) := by
  unfold Machine.settle writeClaimed writeEntry
  exact EngineKept.mono (.after (.setSlot k _) (.after (.modAudit _) (.after (.modPool _) (.after (.modAudit _)
    (.after (.modHead fun _ => by rw [settledHead_eq]) (.modPool _)))))) (by decide)

/-- What the counting leaves of a head beside its holders. -/
theorem head_of_counted {new y : HeadRecord} {m : ChannelSet} (h : { new with inhibitHolders := m } = y) :
    new = { y with inhibitHolders := new.inhibitHolders } := by
  rw [← h]

/-- Settles O31. -/
theorem commitSettles : Obligations.CommitSettles := by
  refine ⟨fun q b x s ready own => ?order,
    fun q b x k o s ready own present tagged piecesA layout held same first mine withinA withinB => ?settled⟩
  case order =>
    obtain ⟨t, ex, h⟩ := exec_concluded ready rfl
    have head : flagHead (.commit q b) q.port = some x := own
    rw [engineCommit_own own] at h
    refine ⟨t, ex, h.moneyCheck rfl head Iff.rfl fun _ h => h.moneyCheck rfl head (commitBad_iff b) fun _ h =>
      ⟨fun absent => ?_, fun k o names => ?_⟩⟩
    · rw [show findTag b.tag (grant q.port s) = none from findTag_eq_none absent] at h
      exact h.fromRing rfl head
    · rw [show findTag b.tag (grant q.port s) = some (k, o) from findTag_of_names names] at h
      exact h.moneyCheck rfl head Iff.rfl fun _ h => h.moneyCheck rfl head (lanesDiffer_iff o b) fun _ h =>
        h.moneyCheck rfl head Iff.rfl fun _ h => h.moneyCheck rfl head (exceedsB_iff o b) fun _ h => h.answeredOk
  case settled =>
    obtain ⟨t, ex, h⟩ := exec_concluded ready rfl
    have head : flagHead (.commit q b) q.port = some x := own
    have sound : ¬commitBad b = true := by rw [commitBad_iff]; omega
    have lanes : ¬o.laneB.isSome ≠ decide (b.groups = 3) := by
      rw [lanesDiffer_iff]
      rcases layout with ⟨two, e⟩ | ⟨three, e, -⟩
      · simp [two, e]
      · simp [three, e]
    have fitsB : ¬(o.laneB.map Lane.pieces).getD 0 < commitPiecesB o b := by
      rw [exceedsB_iff]; rintro ⟨l, e, exceeds⟩; exact absurd (withinB l e) (Nat.not_le.2 exceeds)
    have accepts : engineOf (.commit q b) (grant q.port s) = settleCommit k o b (grant q.port s) := by
      rw [engineCommit_own own]
      refine (if_neg present).trans ((if_neg sound).trans ?_)
      rw [show findTag b.tag (grant q.port s) = some (k, o) from findTag_of_first held same first]
      exact (if_neg (not_not.2 mine)).trans ((if_neg lanes).trans ((if_neg (Nat.not_lt.2 withinA)).trans (if_neg fitsB)))
    obtain ⟨armed, r, et, answered⟩ := (h.of_eq accepts).okMoney rfl
      (changed := [.pool, .heads, .inhibits, .slots, .audit, .channels, .raises])
      (EngineKept.mono (.after (.countEvents _ _) (.settle k o _ _ _ _ _)) (by decide))
    rw [head] at answered
    subst mine
    obtain ⟨w, work⟩ : ∃ w, w = workImprint o.laneA o.laneB b.piecesA b.piecesB (s.heads.get o.head).residue := ⟨_, rfl⟩
    obtain ⟨pieces, total⟩ : ∃ pieces, pieces = b.piecesA + commitPiecesB o b := ⟨_, rfl⟩
    obtain ⟨u, moved⟩ : ∃ u, u = settle k o .committed .commit w.charge pieces w.residue (grant q.port s) := ⟨_, rfl⟩
    have state : (settleCommit k o b (grant q.port s)).state = countEvents (.pieces o.head o.tag) pieces u := by
      rw [moved, total, work]; rfl
    obtain ⟨-, heads, -, -, -, raises⟩ := countEvents_spec (.pieces o.head o.tag) pieces u
    have movedHeads : u.heads = s.heads.modify o.head (settledHead o.tag .committed o.total w.charge pieces w.residue) := by
      rw [moved]; rfl
    have newHeads : t.heads = (countEvents (.pieces o.head o.tag) pieces u).heads := by rw [et, concluded_heads, ← state]; rfl
    have pending : ∀ n, n ≠ srcLowCredit →
        t.notices.pending.get n = (countEvents (.pieces o.head o.tag) pieces u).notices.pending.get n := fun n hn => by
      rw [et, concluded_pending hn, ← state]; rfl
    have audit : t.audit = u.audit := by
      rw [← countEvents_audit (.pieces o.head o.tag) pieces u, ← state, et]; rfl
    refine ⟨t, ex, ?_⟩
    dsimp only
    rw [← work, show (if o.laneB.isSome = true then b.piecesB else 0) = commitPiecesB o b from rfl, ← total]
    refine ⟨?_, ?_, ?_, fun y other => ?_, ?_, ?_, ?_, ?_, fun n hn => ?_⟩
    · rw [total, work]; exact answered
    · have pool : t.pool = { u.pool with lowCreditArmed := t.pool.lowCreditArmed } := by
        rw [← countEvents_pool (.pieces o.head o.tag) pieces u, ← state, et]; rfl
      rw [pool, moved]; rfl
    · have slots : t.slots = u.slots := by rw [← countEvents_slots (.pieces o.head o.tag) pieces u, ← state, et]; rfl
      rw [slots, moved]; rfl
    · have := heads y
      rwa [← newHeads, movedHeads, Tab.get_modify_ne _ _ other] at this
    · have new := head_of_counted (heads o.head)
      rw [← newHeads, movedHeads, Tab.get_modify_self, settledHead_eq] at new
      exact new
    · rw [audit, moved]; rfl
    · rw [audit, moved]; rfl
    · refine counted_of_countEvents (u := u) (by rw [moved]; rfl) (fun y => ?_) (by rw [moved]; rfl) (fun _ _ => by rw [moved]; rfl)
        (by rw [et, concluded_channels, ← state]; rfl) newHeads ?_
        (fun m hm => pending m fun e => lowCredit_not_watchSource (e ▸ hm))
      · rw [movedHeads, Tab.get_modify]
        split
        · rw [settledHead_eq]
        · rfl
      · rw [et, concluded_levels, ← (countEvents_held (.pieces o.head o.tag) pieces u).levels, ← state]; rfl
    · obtain ⟨watch, credit⟩ := not_mem_watchSources.1 hn
      have credit : n ≠ srcLowCredit := by simpa using credit
      rw [pending n credit, raises n watch, moved]; rfl

end Sys2Proof.Machine
end

section
/-! REFILL, RETURN_CREDIT and DECOMMISSION: their check orders and the movements of the accepted ones (chapter 5). -/

namespace Sys2Proof.Machine

open Sys2Proof.Config Sys2Proof.Safety

/-! ### REFILL (R77 to R83) -/

/-- Settles O33: the checks of `engineRefill`, one after another. -/
theorem refillRefusalOrder : Obligations.RefillRefusalOrder := by
  intro q serial amount licence s ready
  obtain ⟨t, ex, h⟩ := exec_concluded ready rfl
  refine ⟨t, ex, h.moneyCheck rfl rfl Iff.rfl fun _ h => h.moneyCheck rfl rfl Iff.rfl fun _ h => ?_⟩
  by_cases resent : serial = s.pool.lastVoucher
  · rw [if_pos resent]
    refine ⟨_, (h.of_eq (if_pos resent)).moneyRefused rfl, fun e newest => ?_⟩
    rw [duplicateBody, grant_audit, newest]
  · rw [if_neg resent]
    exact (h.of_eq (if_neg resent)).moneyCheck rfl rfl Iff.rfl fun _ h => h.moneyCheck rfl rfl Iff.rfl fun _ h =>
      h.moneyCheck rfl rfl Iff.rfl fun _ h => h.moneyCheck rfl rfl Iff.rfl fun _ h => h.moneyCheck rfl rfl Iff.rfl fun _ h =>
      h.moneyCheck rfl rfl (journalFree_eq_zero _) fun _ h => h.answeredOk

/-- The audit store after an entry written without a claim. -/
theorem writeFree_audit (kind : EntryKind) (p : Port) (i : EntryItems) (s : State) : (writeFree kind p i s).audit = { s.audit with
    journal := s.audit.journal ++ [entryNow kind p i s]
    accumulators := accumulate kind i s.audit.accumulators
    nearFullArmed := (writeFree kind p i s).audit.nearFullArmed } :=
  evaluateNearFull_audit (writeEntry kind p i s)

/-- An entry raises JOURNAL_NEAR_FULL alone (R113). -/
theorem writeFree_pending (kind : EntryKind) (p : Port) (i : EntryItems) (s : State) {n : SourceNo} (hn : n ≠ srcNearFull) :
    (writeFree kind p i s).notices.pending.get n = s.notices.pending.get n :=
  evaluateNearFull_pending _ hn

theorem EngineKept.acceptRefill {q : Req} {g : State} (serial amount : Nat) :
    EngineKept [.pool, .inhibits, .audit, .channels, .raises] q g (acceptRefill serial amount g) := by
  rw [acceptRefill_eq]
  unfold refillMovement
  exact EngineKept.mono (.after (.raise _ _) (.after (.countEvents _ _) (.after (.modAudit _)
    (.after (.writeFree _ _ _) (.modPool _))))) (by decide)

theorem nearFull_not_watchSource : srcNearFull ∉ watchSources [] := by decide

theorem refillAccepted_not_watchSource : srcRefillAccepted ∉ watchSources [] := by decide

/-- Settles O34: the refill's movement, its event counted, and REFILL_ACCEPTED raised. -/
theorem refillAccepted : Obligations.RefillAccepted := by
  intro q serial amount licence s ready inService fits serial_le amount1 amount2 licence1 licence2 next same ceiling funded room
  obtain ⟨t, ex, h⟩ := exec_concluded ready rfl
  have accepts : engineOf (.refill q serial amount licence) (grant q.port s) = accept (acceptRefill serial amount (grant q.port s))
      (.refilled serial amount (s.pool.descending + amount) (s.pool.fundedTotal + amount)) := by
    have format : ¬(q.fits = false ∨ serial = 0 ∨ max32 < serial ∨ amount = 0 ∨ maxRefill < amount ∨ licence = 0 ∨
        maxLicence < licence) := by
      simp only [fits, Bool.true_eq_false, false_or, max32, maxRefill, maxLicence]; omega
    have open_ : ¬journalFree (grant q.port s) = 0 := by rw [journalFree_eq_zero]; simpa using room
    exact (if_neg (by simp [inService])).trans ((if_neg format).trans ((if_neg (by simp [next])).trans
      ((if_neg (not_not.2 next)).trans ((if_neg (not_not.2 same)).trans ((if_neg (not_not.2 inService)).trans
      ((if_neg (Nat.not_lt.2 ceiling)).trans ((if_neg (Nat.not_lt.2 funded)).trans (if_neg open_))))))))
  obtain ⟨armed, r, et, answered⟩ := (h.of_eq accepts).okMoney rfl (.acceptRefill serial amount)
  obtain ⟨u, moved⟩ : ∃ u, u = refillMovement serial amount (grant q.port s) := ⟨_, rfl⟩
  obtain ⟨v, counted⟩ : ∃ v, v = countEvents (.refill serial) 1 u := ⟨_, rfl⟩
  have state : acceptRefill serial amount (grant q.port s) =
      raiseSource srcRefillAccepted (.refillAccepted serial amount (s.pool.descending + amount)) v := by
    rw [counted, moved]; rfl
  obtain ⟨-, -, -, -, -, raises⟩ := countEvents_spec (.refill serial) 1 u
  rw [← counted] at raises
  have audit : t.audit = u.audit := by
    rw [← countEvents_audit (.refill serial) 1 u, ← counted, et, concluded_audit, state, raiseSource_audit]
  have levels : v.notices.levels = s.notices.levels := by
    rw [counted, (countEvents_held (.refill serial) 1 u).levels, moved]; simp [refillMovement]
  have pendingU : ∀ n, n ≠ srcNearFull → u.notices.pending.get n = s.notices.pending.get n := fun n hn => by
    rw [moved]; exact writeFree_pending _ _ _ _ hn
  have pending : ∀ n, n ≠ srcLowCredit → t.notices.pending.get n = if n = srcRefillAccepted then
      afterRaise srcRefillAccepted (.refillAccepted serial amount (s.pool.descending + amount)) v
      else v.notices.pending.get n := fun n hn => by
    rw [et, concluded_pending hn, state, raiseSource_pending]
  have pool : t.pool = { u.pool with lowCreditArmed := t.pool.lowCreditArmed } := by
    rw [← countEvents_pool (.refill serial) 1 u, ← counted, et, concluded_pool, state, raiseSource_pool]
  refine ⟨t, ex, answered, ?_, ?_, ?_, ?_, fun n hn => ?_, ?_⟩
  · rw [pool, moved]; simp [refillMovement]
  · rw [audit, moved]
    exact congrArg (fun a : Audit => { a with
      refillLog := pushRefill a.refillLog ⟨serial, amount, s.pool.day, s.pool.descending + amount⟩ }) (writeFree_audit ..)
  · refine nearFullEvaluated (u := writeEntry .refill fundingPort (plainItems none amount) (modPool (fun p => { p with
      descending := p.descending + amount, fundedTotal := p.fundedTotal + amount, lastVoucher := serial }) (grant q.port s)))
      rfl rfl ?_ ?_ ?_ ?_
    · rw [audit, moved]; exact congrArg List.length (evaluateNearFull_journal _)
    · rw [audit, moved]; exact evaluateNearFull_claimed _
    · rw [audit, moved]; rfl
    · rw [pending _ (by decide), if_neg (by decide), raises _ nearFull_not_watchSource, moved]; rfl
  · refine counted_of_countEvents (u := u) (by rw [moved]; simp [refillMovement]) (fun x => by rw [moved]; simp [refillMovement])
      (by rw [moved]; simp [refillMovement]) (fun m hm => pendingU m fun e => nearFull_not_watchSource (e ▸ hm)) ?_ ?_ ?_
      fun m hm => ?_
    · rw [et, concluded_channels, state, raiseSource_channels, counted]
    · rw [et, concluded_heads, state, raiseSource_heads, counted]
    · rw [et, concluded_levels, state, raiseSource_levels, counted, (countEvents_held (.refill serial) 1 u).levels]
    · rw [pending m fun e => lowCredit_not_watchSource (e ▸ hm),
        if_neg fun e : m = srcRefillAccepted => refillAccepted_not_watchSource (e ▸ hm), counted]
  · obtain ⟨watch, other⟩ := not_mem_watchSources.1 hn
    obtain ⟨credit, full, accepted⟩ : n ≠ srcLowCredit ∧ n ≠ srcNearFull ∧ n ≠ srcRefillAccepted := by simpa using other
    rw [pending n credit, if_neg accepted, raises n watch, pendingU n full]
  · rw [pending _ (by decide), if_pos rfl]
    exact afterRaise_congr levels ((raises _ (by decide)).trans (pendingU _ (by decide))) _

/-! ### RETURN_CREDIT and DECOMMISSION (R85 to R87) -/

theorem openCount_ne_zero (s : State) : openCount s ≠ 0 ↔ ∃ k, (s.slots.get k).isSome = true := by
  rw [openCount_eq, ne_eq, List.length_eq_zero_iff, List.filter_eq_nil_iff]
  simp [Option.isSome_iff_ne_none]

theorem EngineKept.returnToGateway {q : Req} {g : State} (amount : Nat) :
    EngineKept [.pool, .audit, .raises] q g (returnToGateway amount g) := by
  unfold Machine.returnToGateway
  exact EngineKept.mono (.after (.writeFree _ _ _) (.modPool _)) (by decide)

/-- What an answer leaves whose engine returned `amount` to the gateway, and changed the service state at most. -/
theorem returned_concluded {c : Instr} {q : Req} {amount : Nat} {s t : State} {a : Answer} {armed : Bool} {r : Option Raised}
    {f : Service → Service} (et : t = concluded c q a armed r)
    (state : a.state = modService f (returnToGateway amount (grant q.port s))) :
    t.pool = { s.pool with
      descending := s.pool.descending - amount, returnedTotal := s.pool.returnedTotal + amount
      movementSequence := (s.pool.movementSequence + 1) % 4294967296, lowCreditArmed := t.pool.lowCreditArmed } ∧
    t.audit = { s.audit with
      journal := s.audit.journal ++ [{
        sequence := s.pool.movementSequence, kind := .returned, day := s.pool.day, port := 7, head := none, tag := none
        pieces := none, amount := amount, returnedRemainder := none, residueAfter := none
        descendingAfter := s.pool.descending - amount }]
      nearFullArmed := t.audit.nearFullArmed } ∧
    NearFullEvaluated s t ∧ RaisesOnly [srcLowCredit, srcNearFull] s t ∧ t.service = f s.service := by
  obtain ⟨nearFull, raises⟩ := nearFull_concluded (s := s)
    (u := writeEntry .returned fundingPort (plainItems none amount) (modPool _ (grant q.port s)))
    et (by rw [state]; rfl) (by rw [state]; rfl) rfl rfl
  refine ⟨?_, ?_, nearFull, raises, ?_⟩
  · rw [et, concluded_pool, state]; simp [returnToGateway]
  · rw [et, concluded_audit, state]; exact writeFree_audit ..
  · rw [et, concluded_service, state]; simp [returnToGateway]

/-- Settles O35. -/
theorem creditReturned : Obligations.CreditReturned := by
  refine ⟨fun q amount s ready => ?returnOrder, fun q s ready => ?decommissionOrder,
    fun q c amount s request ready inService fits room => ?returned⟩
  case returnOrder =>
    obtain ⟨t, ex, h⟩ := exec_concluded ready rfl
    exact ⟨t, ex, h.moneyCheck rfl rfl Iff.rfl fun _ h => h.moneyCheck rfl rfl Iff.rfl fun _ h =>
      h.moneyCheck rfl rfl (journalFree_eq_zero _) fun _ h => h.moneyCheck rfl rfl Iff.rfl fun _ h => h.answeredOk⟩
  case decommissionOrder =>
    obtain ⟨t, ex, h⟩ := exec_concluded ready rfl
    refine ⟨t, ex, h.moneyCheck rfl rfl Iff.rfl fun _ h => h.moneyCheck rfl rfl (by simp) fun _ h => ?_⟩
    rw [← openCount_eq]
    exact h.moneyCheck rfl rfl (openCount_ne_zero s) fun _ h => h.moneyCheck rfl rfl (journalFree_eq_zero _) fun _ h => h.answeredOk
  case returned =>
    have open_ : ¬journalFree (grant q.port s) = 0 := by rw [journalFree_eq_zero]; simpa using room
    rcases request with ⟨rfl, low, high, funds⟩ | ⟨rfl, rfl, empty⟩
    · obtain ⟨t, ex, h⟩ := exec_concluded ready rfl
      have accepts : engineOf (.returnCredit q amount) (grant q.port s) = accept (returnToGateway amount (grant q.port s))
          (.returned amount (s.pool.descending - amount) (s.pool.returnedTotal + amount)) :=
        (if_neg (not_not.2 inService)).trans ((if_neg (by simp only [fits, Bool.true_eq_false, false_or, maxPool]; omega)).trans
          ((if_neg open_).trans (if_neg (Nat.not_lt.2 funds))))
      obtain ⟨armed, r, et, answered⟩ := (h.of_eq accepts).okMoney rfl
        ((EngineKept.returnToGateway amount).mono (others := [.pool, .audit, .service, .raises]) (by decide))
      obtain ⟨pool, audit, nearFull, raises, service⟩ := returned_concluded (f := id) et rfl
      exact ⟨t, _, ex, answered, pool, audit, nearFull, raises, fun _ => ⟨service, rfl⟩, nofun⟩
    · obtain ⟨t, ex, h⟩ := exec_concluded ready rfl
      have closed : ¬openCount (grant q.port s) ≠ 0 :=
        mt (openCount_ne_zero s).1 fun ⟨k, held⟩ => by simp [empty k] at held
      have accepts : engineOf (.decommission q) (grant q.port s) =
          accept (modService (fun v => { v with state := .withdrawn }) (returnToGateway s.pool.descending (grant q.port s)))
            (.decommissioned s.pool.descending (s.pool.returnedTotal + s.pool.descending)) :=
        (if_neg (not_not.2 inService)).trans ((if_neg (by simp [fits])).trans ((if_neg closed).trans (if_neg open_)))
      obtain ⟨armed, r, et, answered⟩ := (h.of_eq accepts).okMoney rfl
        ((EngineKept.after (.modService _) (.returnToGateway _)).mono (others := [.pool, .audit, .service, .raises]) (by decide))
      obtain ⟨pool, audit, nearFull, raises, service⟩ :=
        returned_concluded (s := s) (f := fun v => { v with state := .withdrawn }) et rfl
      exact ⟨t, _, ex, answered, pool, audit, nearFull, raises, nofun, fun _ => ⟨service, rfl⟩⟩

end Sys2Proof.Machine
end

section
/-! STOCK_RECEIVE, STOCK_ISSUE and STOCK_SPOIL: their check orders and the movements of the accepted ones (R95 to R98). -/

namespace Sys2Proof.Machine

open Sys2Proof.Config Sys2Proof.Safety

/-! ### The checks -/

/-- What makes a stock movement fail FORMAT. -/
abbrev MoveBad (q : Req) (entry n : Nat) : Prop := q.fits = false ∨ 31 < entry ∨ n = 0 ∨ 99999999 < n

theorem moveBad_iff (q : Req) {e : EntryNo} (n : Nat) :
    (q.fits = false ∨ n = 0 ∨ maxCount < n) ↔ MoveBad q e.val n := by
  have bound : maxCount = 99999999 := rfl
  have low := e.isLt
  simp only [MoveBad, bound]
  exact ⟨fun h => h.imp_right .inr, fun h => h.imp_right fun h => h.resolve_left (by omega)⟩

section Receive
variable {q : Req} {e : EntryNo} {n d : Nat} {g : State}

theorem engineStockReceive_misshapen {entry : Nat} (inService : g.service.state = .inService) (bad : MoveBad q entry n) :
    engineStockReceive q entry n g = refuse g .format .none := by
  refine (if_neg (not_not.2 inService)).trans ?_
  cases named : index 32 entry with
  | none => rfl
  | some x =>
    obtain rfl := index_eq_some.1 named
    exact if_pos ((moveBad_iff q n).2 bad)

theorem engineStockReceive_inactive (inService : g.service.state = .inService) (good : ¬MoveBad q e.val n)
    (inactive : ∀ d, (g.stock.get e).state ≠ .active d) :
    engineStockReceive q e.val n g = refuse g .entry (.entryState (g.stock.get e).state) := by
  refine (if_neg (not_not.2 inService)).trans ?_
  rw [index_val]
  refine (if_neg (mt (moveBad_iff q n).1 good)).trans ?_
  cases state : (g.stock.get e).state with
  | active d => exact absurd state (inactive d)
  | _ => rfl

theorem engineStockReceive_active (inService : g.service.state = .inService) (good : ¬MoveBad q e.val n)
    (active : (g.stock.get e).state = .active d) : engineStockReceive q e.val n g =
      if maxCount < (g.stock.get e).received + n then refuse g .stockLimit (.entryReceived (g.stock.get e).received)
      else if journalFree g = 0 then refuse g .journalFull .none
      else if g.pool.descending < n * d then refuse g .funds (.stockFunds (n * d) g.pool.descending)
      else match belowFloor g.pool (n * d) with
        | some f => refuse g .floor (.stockFloor (n * d) g.pool.descending f)
        | none => accept (receiveStamps e n (n * d) g)
          (.stockReceived e n (n * d) ((g.stock.get e).onHand + n) ((g.stock.get e).received + n)
            (g.pool.descending - n * d)) := by
  refine (if_neg (not_not.2 inService)).trans ?_
  rw [index_val]
  refine (if_neg (mt (moveBad_iff q n).1 good)).trans ?_
  rw [active] <;> rfl

end Receive

section Move
variable {issue : Bool} {q : Req} {e : EntryNo} {n d : Nat} {g : State}

theorem engineStockMove_misshapen {entry : Nat} (working : isWorking g.service.state = true) (bad : MoveBad q entry n) :
    engineStockMove issue q entry n g = refuse g .format .none := by
  refine (if_neg (by simp [working])).trans ?_
  cases named : index 32 entry with
  | none => rfl
  | some x =>
    obtain rfl := index_eq_some.1 named
    exact if_pos ((moveBad_iff q n).2 bad)

theorem engineStockMove_inactive (working : isWorking g.service.state = true) (good : ¬MoveBad q e.val n)
    (inactive : ∀ d, (g.stock.get e).state ≠ .active d) :
    engineStockMove issue q e.val n g = refuse g .entry (.entryState (g.stock.get e).state) := by
  refine (if_neg (by simp [working])).trans ?_
  rw [index_val]
  refine (if_neg (mt (moveBad_iff q n).1 good)).trans ?_
  cases state : (g.stock.get e).state with
  | active d => exact absurd state (inactive d)
  | _ => rfl

theorem engineStockMove_active (working : isWorking g.service.state = true) (good : ¬MoveBad q e.val n)
    (active : (g.stock.get e).state = .active d) : engineStockMove issue q e.val n g =
      if (g.stock.get e).onHand < n then refuse g .short (.entryOnHand (g.stock.get e).onHand)
      else if journalFree g = 0 then refuse g .journalFull .none
      else accept (moveStamps issue e n d g) (.stockMoved e n ((g.stock.get e).onHand - n)
        ((if issue then (g.stock.get e).issued else (g.stock.get e).spoiled) + n)) := by
  refine (if_neg (by simp [working])).trans ?_
  rw [index_val]
  refine (if_neg (mt (moveBad_iff q n).1 good)).trans ?_
  rw [active]

/-- The two commands that move stamps off the shelf (R97). -/
def stockMove (issue : Bool) (q : Req) (entry n : Nat) : Instr :=
  if issue then .stockIssue q entry n else .stockSpoil q entry n

theorem engineOf_stockMove (entry : Nat) : engineOf (stockMove issue q entry n) g = engineStockMove issue q entry n g := by
  cases issue <;> rfl

theorem requestHeader_stockMove (entry : Nat) : requestHeader (stockMove issue q entry n) = some q := by
  cases issue <;> rfl

theorem stockMove_plain (entry : Nat) : moneyCodes.contains (requestCode (stockMove issue q entry n)) = false := by
  cases issue <;> rfl

end Move

/-- Whether a value would carry descending below the floor (R7). -/
theorem belowFloor_eq_some {p : Pool} {v f : Nat} : belowFloor p v = some f ↔ p.floor = some f ∧ p.descending - v < f := by
  cases e : p.floor with
  | none => simp [belowFloor, e]
  | some x =>
    simp only [belowFloor, e]
    split
    · rename_i low
      exact ⟨fun same => by cases same; exact ⟨rfl, low⟩, fun h => h.1⟩
    · rename_i high
      exact ⟨nofun, fun ⟨same, low⟩ => by cases same; exact absurd low high⟩

/-! ### The movements (R96, R98) -/

theorem EngineKept.receiveStamps {q : Req} {g : State} (e : EntryNo) (n v : Nat) :
    EngineKept [.pool, .stock, .stockDay, .audit, .raises] q g (receiveStamps e n v g) := by
  unfold Machine.receiveStamps
  exact EngineKept.mono (.after (.writeFree _ _ _) (.after (.modStockDay _) (.after (.modStock e _) (.modPool _)))) (by decide)

theorem EngineKept.moveStamps {q : Req} {g : State} (issue : Bool) (e : EntryNo) (n d : Nat) :
    EngineKept [.pool, .stock, .stockDay, .audit, .raises] q g (moveStamps issue e n d g) := by
  unfold Machine.moveStamps
  exact EngineKept.mono (.after (.writeFree _ _ _) (.after (.modStockDay _) (.modStock e _))) (by decide)

theorem movedEntry_eq (issue : Bool) (n : Nat) (r : StockEntry) : movedEntry issue n r = { r with
    onHand := r.onHand - n, issued := if issue then r.issued + n else r.issued
    spoiled := if issue then r.spoiled else r.spoiled + n } := by
  cases issue <;> rfl

/-- Settles O36. -/
theorem stockMovements : Obligations.StockMovements := by
  refine ⟨fun q entry n s ready => ?receiveOrder, fun q c entry n s request ready => ?moveOrder,
    fun q e n d s ready inService fits low high active limit room funds floor => ?received,
    fun issue q e n d c s request ready taken fits low high active shelf room => ?moved⟩
  case receiveOrder =>
    obtain ⟨t, ex, h⟩ := exec_concluded ready rfl
    refine ⟨t, ex, ?_⟩
    by_cases inService : s.service.state = .inService
    case neg =>
      rw [if_pos inService]
      exact (h.of_eq (if_pos inService)).moneyRefused rfl
    case pos =>
      rw [if_neg (not_not.2 inService)]
      by_cases bad : MoveBad q entry n
      case pos =>
        rw [if_pos bad]
        exact (h.of_eq (engineStockReceive_misshapen inService bad)).moneyRefused rfl
      case neg =>
        rw [if_neg bad]
        rintro e rfl
        refine ⟨fun inactive => ?_, fun d active => ?_⟩
        · exact reportsEntry_of ((h.of_eq (engineStockReceive_inactive inService bad inactive)).moneyRefused rfl)
        · refine (h.of_eq (engineStockReceive_active inService bad active)).moneyCheck rfl rfl Iff.rfl fun _ h =>
            h.moneyCheck rfl rfl (journalFree_eq_zero _) fun _ h => h.moneyCheck rfl rfl Iff.rfl fun funds h => ?_
          have funds : ¬s.pool.descending < n * d := funds
          refine ⟨fun f floor below => ?_, fun clear => ?_⟩
          · rw [grant_pool, belowFloor_eq_some.2 ⟨floor, by omega⟩] at h
            exact h.moneyRefused rfl
          · have none_ : belowFloor s.pool (n * d) = none := Option.eq_none_iff_forall_ne_some.2 fun f below => by
              obtain ⟨floor, low⟩ := belowFloor_eq_some.1 below
              have := clear f floor
              omega
            rw [grant_pool, none_] at h
            exact h.answeredOk
  case moveOrder =>
    obtain ⟨issue, rfl⟩ : ∃ issue, c = stockMove issue q entry n := by
      rcases request with rfl | rfl
      · exact ⟨true, rfl⟩
      · exact ⟨false, rfl⟩
    obtain ⟨t, ex, h⟩ := exec_concluded ready (requestHeader_stockMove entry)
    rw [engineOf_stockMove] at h
    have plain := stockMove_plain (issue := issue) (q := q) (n := n) entry
    refine ⟨t, ex, h.tableChecks plain (fun idle => if_pos (by simp [idle]))
      (fun working bad => engineStockMove_misshapen working bad) fun working good => ?_⟩
    rintro e rfl
    refine ⟨fun inactive => ⟨_, (h.of_eq (engineStockMove_inactive working good inactive)).plainRefused plain⟩,
      fun d active => (h.of_eq (engineStockMove_active working good active)).plainCheck plain Iff.rfl fun _ h =>
        h.plainCheck plain (journalFree_eq_zero _) fun _ h => h.answeredOk⟩
  case received =>
    obtain ⟨t, ex, h⟩ := exec_concluded ready rfl
    have good : ¬MoveBad q e.val n := by simp only [MoveBad, fits]; simp; omega
    have open_ : ¬journalFree (grant q.port s) = 0 := by rw [journalFree_eq_zero]; simpa using room
    have accepts : engineOf (.stockReceive q e.val n) (grant q.port s) = accept (receiveStamps e n (n * d) (grant q.port s))
        (.stockReceived e n (n * d) ((s.stock.get e).onHand + n) ((s.stock.get e).received + n)
          (s.pool.descending - n * d)) := by
      refine (engineStockReceive_active (g := grant q.port s) inService good active).trans ((if_neg (Nat.not_lt.2 limit)).trans
        ((if_neg open_).trans ((if_neg (Nat.not_lt.2 funds)).trans ?_)))
      have none_ : belowFloor s.pool (n * d) = none := Option.eq_none_iff_forall_ne_some.2 fun f below => by
        obtain ⟨present, low⟩ := belowFloor_eq_some.1 below
        exact absurd low (Nat.not_lt.2 (floor f present))
      rw [grant_pool, none_]
      rfl
    obtain ⟨armed, r, et, answered⟩ := (h.of_eq accepts).okMoney rfl (.receiveStamps e n (n * d))
    obtain ⟨nearFull, raises⟩ := nearFull_concluded (s := s) et rfl rfl rfl rfl
    refine ⟨t, ex, answered, ?_, ?_, ?_, ?_, nearFull, raises⟩
    · rw [et, concluded_pool]; simp [receiveStamps]
    · rw [et, concluded_stock]; simp [receiveStamps]; rfl
    · rw [et, concluded_stockDay]; simp [receiveStamps]
    · rw [et, concluded_audit]; exact writeFree_audit ..
  case moved =>
    obtain rfl : c = stockMove issue q e.val n := request
    obtain ⟨t, ex, h⟩ := exec_concluded ready (requestHeader_stockMove e.val)
    have good : ¬MoveBad q e.val n := by simp only [MoveBad, fits]; simp; omega
    have open_ : ¬journalFree (grant q.port s) = 0 := by rw [journalFree_eq_zero]; simpa using room
    rw [engineOf_stockMove] at h
    have h := h.of_eq ((engineStockMove_active (g := grant q.port s) ((isWorking_iff _).2 taken) good active).trans
      ((if_neg (Nat.not_lt.2 shelf)).trans (if_neg open_)))
    obtain ⟨armed, r, et, answered⟩ := h.ok (stockMove_plain _) (.moveStamps issue e n d)
    obtain ⟨nearFull, raises⟩ := nearFull_concluded (s := s) et rfl rfl rfl rfl
    have stock : t.stock = s.stock.modify e (movedEntry issue n) := by rw [et, concluded_stock]; simp [moveStamps]
    have new : t.stock.get e = movedEntry issue n (s.stock.get e) := by rw [stock, Tab.get_modify_self]
    refine ⟨t, ex, ?_⟩
    dsimp only
    rw [new, movedEntry_eq]
    refine ⟨?_, ?_, fun k hk => by rw [stock, Tab.get_modify_ne _ _ hk], rfl, ?_, ?_, nearFull, raises⟩
    · cases issue <;> exact answered
    · rw [et, concluded_pool]; simp [moveStamps]
    · rw [et, concluded_stockDay]; cases issue <;> simp [moveStamps]
    · rw [et, concluded_audit]; cases issue <;> exact writeFree_audit ..

end Sys2Proof.Machine
end

section
/-! JOURNAL_ACK and the near-full evaluation (R107, R111, R113), and the close of the business day (R70, R71, R118 to R121, R127). -/

namespace Sys2Proof.Machine

open Sys2Proof.Config Sys2Proof.Safety

/-! ### JOURNAL_ACK (R111) -/

/-- The state that an ack leaves before the near-full evaluation. -/
def acked (n : Nat) (s : State) : State := modAudit (fun a => { a with journal := a.journal.drop n }) s

theorem acknowledge_zero (s : State) : acknowledge 0 s = acked 0 s := rfl

theorem acknowledge_some {n : Nat} (some : 1 ≤ n) (s : State) : acknowledge n s = evaluateNearFull (acked n s) :=
  if_neg (by omega)

theorem acknowledge_audit (n : Nat) (s : State) : (acknowledge n s).audit =
    { s.audit with journal := s.audit.journal.drop n, nearFullArmed := (acknowledge n s).audit.nearFullArmed } := by
  rcases Nat.eq_zero_or_pos n with rfl | some
  · rfl
  · rw [acknowledge_some some]
    exact evaluateNearFull_audit _

theorem EngineKept.acknowledge {q : Req} {g : State} (n : Nat) : EngineKept [.audit, .raises] q g (acknowledge n g) := by
  rcases Nat.eq_zero_or_pos n with rfl | some
  · rw [acknowledge_zero]
    exact EngineKept.mono (changed := [.audit]) (by unfold acked; exact .modAudit _) (by decide)
  · rw [acknowledge_some some]
    exact EngineKept.mono (.after .evaluateNearFull (by unfold acked; exact .modAudit _)) (by decide)

/-- The near-full evaluation case by case (R113). -/
theorem evaluateNearFull_cases (s : State) :
    (let free := 512 - s.audit.journal.length - s.audit.claimed
     (free < 32 → s.audit.nearFullArmed = true →
       (evaluateNearFull s).audit = { s.audit with nearFullArmed := false } ∧
       (evaluateNearFull s).notices.pending.get srcNearFull =
         afterRaise srcNearFull (.nearFull free s.audit.journal.length s.audit.claimed) s) ∧
     (64 ≤ free → evaluateNearFull s = { s with audit := { s.audit with nearFullArmed := true } }) ∧
     (free < 64 → (32 ≤ free ∨ s.audit.nearFullArmed = false) → evaluateNearFull s = s)) := by
  have free : journalFree s = 512 - s.audit.journal.length - s.audit.claimed := rfl
  dsimp only
  rw [← free]
  refine ⟨fun low armed => ?_, fun high => ?_, fun low rest => ?_⟩
  · unfold evaluateNearFull
    rw [if_pos ⟨low, armed⟩]
    exact ⟨raiseSource_audit .., by rw [raiseSource_pending, if_pos rfl]; rfl⟩
  · unfold evaluateNearFull
    rw [if_neg (by omega), if_pos high]
    rfl
  · unfold evaluateNearFull
    rw [if_neg fun h => rest.elim (by omega) fun off => by simp [off] at h, if_neg (by omega)]

/-- The oldest sequence is as far behind the movement sequence as there are entries (R107). -/
theorem oldestSequence_spec {s : State} (room : s.audit.journal.length ≤ 512) : oldestSequence s < 4294967296 ∧
    (oldestSequence s + s.audit.journal.length) % 4294967296 = s.pool.movementSequence % 4294967296 := by
  have bound : max32 + 1 = 4294967296 := rfl
  simp only [oldestSequence, unacknowledged, bound]
  omega

/-- Settles O37. -/
theorem journalAckAndNearFull : Obligations.JournalAckAndNearFull := by
  refine ⟨⟨fun q n s ready fits low held => ?accepted, fun q n s ready fits low short => ?short, fun q n s ready bad => ?bad⟩,
    fun s room => oldestSequence_spec room, evaluateNearFull_cases⟩
  case accepted =>
    obtain ⟨t, ex, h⟩ := exec_concluded ready rfl
    have format : ¬(q.fits = false ∨ 512 < n) := by simp [fits]; omega
    have h := h.of_eq ((if_neg format).trans (if_neg (Nat.not_lt.2 held)))
    obtain ⟨armed, r, et, answered⟩ := h.ok rfl (.acknowledge n)
    have audit : t.audit = { s.audit with journal := s.audit.journal.drop n, nearFullArmed := t.audit.nearFullArmed } := by
      rw [et, concluded_audit]
      exact acknowledge_audit n (grant q.port s)
    have left := acknowledge_audit n (grant q.port s)
    have journal : (acknowledge n (grant q.port s)).audit.journal = s.audit.journal.drop n := by
      rw [left]; rfl
    have claimed : (acknowledge n (grant q.port s)).audit.claimed = s.audit.claimed := by
      rw [left]; rfl
    have oldest : oldestSequence t = oldestSequence (acknowledge n (grant q.port s)) := by rw [et]; rfl
    refine ⟨t, ex, ?_, audit, fun some => ?_, ?_, ?_⟩
    · rw [oldest]
      simpa [journalFree, unacknowledged, journal, claimed, journalCapacity] using answered
    · exact (nearFull_concluded (s := s) et (congrArg State.audit (acknowledge_some some _))
        (congrArg State.notices (acknowledge_some some _)) rfl rfl).1
    · rintro rfl
      refine ⟨by rw [et, concluded_audit]; rfl, fun m hm => ?_⟩
      rw [et, concluded_pending (by simpa using hm)]
      rfl
    · rcases Nat.eq_zero_or_pos n with rfl | some
      · intro m hm
        rw [et, concluded_pending fun e => hm (by simp [e])]
        rfl
      · exact (nearFull_concluded (s := s) et (congrArg State.audit (acknowledge_some some _))
          (congrArg State.notices (acknowledge_some some _)) rfl rfl).2
  case short =>
    obtain ⟨t, ex, h⟩ := exec_concluded ready rfl
    have format : ¬(q.fits = false ∨ 512 < n) := by simp [fits]; omega
    exact ⟨t, ex, (h.of_eq ((if_neg format).trans (if_pos short))).unrecorded rfl fun _ => rfl⟩
  case bad =>
    obtain ⟨t, ex, h⟩ := exec_concluded ready rfl
    exact ⟨t, ex, (h.of_eq (if_pos bad)).plainRefused rfl⟩

/-! ### The pending entries that a close applies (R70) -/

theorem dueKind_eq_some {day : Nat} {r : RateClass} {kind : PendingKind} : dueKind day r = some kind ↔
    ∃ e, r.waiting = some e ∧ e.effective ≤ day ∧ kind = if e.content.isSome then .replacement else .withdrawal := by
  cases waiting : r.waiting with
  | none => simp [dueKind, waiting]
  | some e =>
    simp only [dueKind, waiting, Option.some.injEq, exists_eq_left']
    by_cases due : e.effective ≤ day
    · simp only [due, if_true, true_and, Option.some.injEq]
      exact eq_comm
    · simp [due]

theorem mem_appliedList {day : Nat} {rates : Tab RateClass 64} {c : ClassNo} {kind : PendingKind} :
    (c, kind) ∈ appliedList day rates ↔ dueKind day (rates.get c) = some kind := by
  simp [appliedList]

theorem appliedList_ascending (day : Nat) (rates : Tab RateClass 64) :
    ((appliedList day rates).map Prod.fst).Pairwise (· < ·) := by
  rw [List.pairwise_map]
  refine List.Pairwise.filterMap _ (fun a b lt x hx y hy => ?_) (List.pairwise_lt_finRange 64)
  obtain ⟨k, -, rfl⟩ := Option.map_eq_some_iff.1 hx
  obtain ⟨k', -, rfl⟩ := Option.map_eq_some_iff.1 hy
  exact lt

theorem appliedRate_due {day : Nat} {r : RateClass} {e : PendingEntry} (waits : r.waiting = some e) (due : e.effective ≤ day) :
    appliedRate day r = ⟨e.content, none⟩ := by
  simp [appliedRate, waits, due]

theorem appliedRate_not_due {day : Nat} {r : RateClass} (later : ∀ e, r.waiting = some e → day < e.effective) :
    appliedRate day r = r := by
  cases waits : r.waiting with
  | none => simp [appliedRate, waits]
  | some e => simp [appliedRate, waits, later e waits]

/-! ### The close (R118 to R121, R127) -/

/-- The channels that one day brings to zero (R127). -/
theorem count_daysZero (channels : Tab Channel 8) : channels.count daysZero =
    ((List.finRange 8).filter fun c => decide ((channels.get c).state = .running) &&
      decide ((channels.get c).source = .days) && decide ((channels.get c).count ≤ 1 ∧
        ((channels.get c).prescale = .one ∨ 99 ≤ (channels.get c).prescaleCount))).length := by
  rw [Tab.count_eq]
  refine congrArg List.length (List.filter_congr fun c _ => ?_)
  have last : atLastEvent (channels.get c) = decide ((channels.get c).count ≤ 1 ∧
      ((channels.get c).prescale = .one ∨ 99 ≤ (channels.get c).prescaleCount)) := by
    rw [Bool.eq_iff_iff, atLastEvent_iff, decide_eq_true_eq]
  rw [daysZero, last]

theorem EngineKept.raiseTariff {q : Req} {g : State} (n day : Nat) : EngineKept [.raises] q g (raiseTariff n day g) := by
  unfold Machine.raiseTariff
  split
  · exact (EngineKept.refl q g).mono (by decide)
  · exact .raise _ _

theorem EngineKept.closeMovement {q : Req} {g : State} :
    EngineKept [.pool, .heads, .rates, .stockDay, .audit, .raises] q g (closeMovement g) := by
  have written := (EngineKept.after (.modAudit _) (.writeFree _ _ _) : EngineKept _ q g (Machine.modAudit (fun a => { a with
      dayLog := (daySummary g :: a.dayLog).take dayLogCapacity, accumulators := emptyAccumulators })
    (Machine.writeFree .dayClose tellerPort (plainItems none 0) g)))
  refine EngineKept.mono (.after (others := [.pool, .heads, .rates, .stockDay]) ?_ written) (by decide)
  refine ⟨links_same q _, rfl, rfl, rfl, rfl, fun part hp => ?_⟩
  cases part with
  | pool | heads | rates | stockDay => simp at hp
  | inhibits => exact fun x => by simp [Machine.closeMovement]
  | stack | nesting | holds => exact fun _ => rfl
  | raises => exact fun _ _ => rfl
  | _ => rfl

theorem EngineKept.closeDay {q : Req} {g : State} :
    EngineKept [.pool, .heads, .inhibits, .rates, .stockDay, .audit, .channels, .raises] q g (closeDay g) := by
  rw [closeDay_eq]
  exact EngineKept.mono (.after (.countEvents _ _) (.after (.raiseTariff _ _) .closeMovement)) (by decide)

theorem raiseTariff_pending (n day : Nat) (s : State) (m : SourceNo) : (raiseTariff n day s).notices.pending.get m =
    if m = srcTariffApplied ∧ n ≠ 0 then afterRaise srcTariffApplied (.tariffApplied n day) s else s.notices.pending.get m := by
  unfold raiseTariff
  split
  · rename_i none_; rw [if_neg fun h => h.2 none_]
  · rename_i some; simp only [raiseSource_pending, some, ne_eq, not_false_eq_true, and_true]

theorem raiseTariff_notices_only (n day : Nat) (s : State) : ∃ pending, raiseTariff n day s =
    { s with notices := { s.notices with pending := pending } } := by
  unfold raiseTariff
  split
  · exact ⟨_, rfl⟩
  · exact ⟨_, raiseSource_eq ..⟩

theorem closeMovement_audit (s : State) : (closeMovement s).audit = { s.audit with
    journal := s.audit.journal ++ [entryNow .dayClose tellerPort (plainItems none 0) s]
    accumulators := emptyAccumulators, dayLog := (daySummary s :: s.audit.dayLog).take dayLogCapacity
    nearFullArmed := (closeMovement s).audit.nearFullArmed } :=
  congrArg (fun a : Audit => { a with
    dayLog := (daySummary s :: a.dayLog).take dayLogCapacity, accumulators := emptyAccumulators }) (writeFree_audit ..)

theorem tariffApplied_not_watchSource : srcTariffApplied ∉ watchSources [] := by decide

/-- Settles O38: the close's movement, TARIFF_APPLIED raised behind it, and the day counted. -/
theorem dayCloseAccepted : Obligations.DayCloseAccepted := by
  refine ⟨fun q day s ready => ?order, fun q s ready taken fits begun last room => ?closed⟩
  case order =>
    obtain ⟨t, ex, h⟩ := exec_concluded ready rfl
    exact ⟨t, ex, h.plainCheck rfl (not_working_iff _) fun _ h => h.plainCheck rfl Iff.rfl fun _ h =>
      h.plainCheck rfl Iff.rfl fun _ h => h.plainCheck rfl Iff.rfl fun _ h =>
      h.plainCheck rfl (journalFree_eq_zero _) fun _ h => h.answeredOk⟩
  case closed =>
    obtain ⟨t, ex, h⟩ := exec_concluded ready rfl
    have working : ¬(!isWorking s.service.state) = true := fun idle => (not_working_iff _).1 idle taken
    have open_ : ¬journalFree (grant q.port s) = 0 := by rw [journalFree_eq_zero]; simpa using room
    have accepts : engineOf (.dayClose q s.pool.day) (grant q.port s) = accept (closeDay (grant q.port s))
        (.dayClosed s.pool.day (s.pool.day + 1) s.pool.movementSequence (appliedList (s.pool.day + 1) s.rates).length
          (openCount s) (s.channels.count daysZero)) :=
      (if_neg working).trans ((if_neg (by simp [fits, begun])).trans ((if_neg (not_not.2 rfl)).trans
        ((if_neg last).trans (if_neg open_))))
    obtain ⟨armed, r, et, answered⟩ := (h.of_eq accepts).ok rfl .closeDay
    rw [count_daysZero] at answered
    obtain ⟨applied, list⟩ : ∃ applied, applied = appliedList (s.pool.day + 1) s.rates := ⟨_, rfl⟩
    obtain ⟨m, moved⟩ : ∃ m, m = closeMovement (grant q.port s) := ⟨_, rfl⟩
    obtain ⟨u, raised⟩ : ∃ u, u = raiseTariff applied.length (s.pool.day + 1) m := ⟨_, rfl⟩
    have state : closeDay (grant q.port s) = countEvents (.day (s.pool.day + 1)) 1 u := by
      rw [raised, moved, list]; rfl
    obtain ⟨-, heads, -, -, -, raises⟩ := countEvents_spec (.day (s.pool.day + 1)) 1 u
    obtain ⟨pendings, only⟩ := raiseTariff_notices_only applied.length (s.pool.day + 1) m
    rw [← raised] at only
    have pendingM : ∀ n, n ≠ srcNearFull → m.notices.pending.get n = s.notices.pending.get n := fun n hn => by
      rw [moved]; exact writeFree_pending _ _ _ _ hn
    have levels : m.notices.levels = s.notices.levels := by rw [moved]; exact evaluateNearFull_levels _
    have pendingU : ∀ n, n ≠ srcTariffApplied → u.notices.pending.get n = m.notices.pending.get n := fun n hn => by
      rw [raised, raiseTariff_pending, if_neg fun e => hn e.1]
    have pending : ∀ n, n ≠ srcLowCredit → t.notices.pending.get n =
        (countEvents (.day (s.pool.day + 1)) 1 u).notices.pending.get n := fun n hn => by
      rw [et, concluded_pending hn, state]
    have audit : t.audit = m.audit := by rw [et, concluded_audit, state, countEvents_audit, only]
    have rates : ∀ c, t.rates.get c = appliedRate (s.pool.day + 1) (s.rates.get c) := fun c => by
      rw [et, concluded_rates, state, countEvents_rates, only, moved]; simp [closeMovement]
    have newHeads : t.heads = (countEvents (.day (s.pool.day + 1)) 1 u).heads := by rw [et, concluded_heads, state]
    have headsU : ∀ x, u.heads.get x = { s.heads.get x with usedToday := 0 } := fun x => by
      rw [only, moved]; simp [closeMovement]
    refine ⟨t, applied, ex, by rw [list]; exact answered, ?_, fun x => ?_, ?_, fun c e waits due => ?_, fun c later => ?_,
      fun c kind => ?_, ?_, ?_, ?_, ?_, fun n hn => ?_, ?_⟩
    · rw [et, concluded_pool, state, countEvents_pool, only, moved]; simp [closeMovement]
    · have := heads x
      rw [headsU, ← newHeads] at this
      exact this
    · rw [et, concluded_stockDay, state, countEvents_stockDay, only, moved]; rfl
    · rw [rates, appliedRate_due waits due]
    · rw [rates, appliedRate_not_due later]
    · rw [list, mem_appliedList, dueKind_eq_some]
    · rw [list]; exact appliedList_ascending ..
    · rw [audit, moved, list]; exact closeMovement_audit _
    · refine nearFullEvaluated (u := writeEntry .dayClose tellerPort (plainItems none 0) (grant q.port s)) rfl rfl ?_ ?_ ?_ ?_
      · rw [audit, moved]; exact congrArg List.length (evaluateNearFull_journal _)
      · rw [audit, moved]; exact evaluateNearFull_claimed _
      · rw [audit, moved]; rfl
      · rw [pending _ (by decide), raises _ nearFull_not_watchSource, pendingU _ (by decide), moved]; rfl
    · refine counted_of_countEvents (u := u) (by rw [only, moved]; simp [closeMovement]) (fun x => by rw [headsU])
        (by rw [only]; exact levels) (fun n hn => ?_) (by rw [et, concluded_channels, state]) newHeads ?_
        fun n hn => pending n fun e => lowCredit_not_watchSource (e ▸ hn)
      · rw [pendingU n fun e => tariffApplied_not_watchSource (e ▸ hn), pendingM n fun e => nearFull_not_watchSource (e ▸ hn)]
      · rw [et, concluded_levels, state, (countEvents_held (.day (s.pool.day + 1)) 1 u).levels]
    · obtain ⟨watch, other⟩ := not_mem_watchSources.1 hn
      obtain ⟨credit, full, tariff⟩ : n ≠ srcLowCredit ∧ n ≠ srcNearFull ∧ n ≠ srcTariffApplied := by simpa using other
      rw [pending n credit, raises n watch, pendingU n tariff, pendingM n full]
    · have before := pendingM srcTariffApplied (by decide)
      rw [pending _ (by decide), raises _ tariffApplied_not_watchSource, raised, raiseTariff_pending,
        afterRaise_congr levels before, before]
      cases applied <;> simp

end Sys2Proof.Machine
end

section
/-! The forfeits: the expiry of a hold (R33, R53, R174) and the restart with its charges (R54, R166, R167). -/

namespace Sys2Proof.Machine

open Sys2Proof.Config Sys2Proof.Safety

/-! ### One forfeit (R33) -/

section Forfeit
variable (k : SlotNo) (o : OpenImprint) (kind : ClosureKind) (entry : EntryKind) (s : State)

/-- The state of a forfeit before its pieces are counted. -/
def forfeitSettled : State :=
  settle k o kind entry o.total (forfeitPieces o) (forfeitResidue o.laneA o.laneB (s.heads.get o.head).residue) s

/-- The items of a forfeit's entry. -/
def forfeitItems : EntryItems :=
  ⟨some o.head, some o.tag, some (forfeitPieces o), o.total, some 0, some (forfeitedHead kind o (s.heads.get o.head)).residue⟩

theorem forfeit_eq_count :
    forfeit k o kind entry s = countEvents (.pieces o.head o.tag) (forfeitPieces o) (forfeitSettled k o kind entry s) := rfl

theorem forfeitSettled_eq : forfeitSettled k o kind entry s = { s with
    pool := { s.pool with
      reservedTotal := s.pool.reservedTotal - o.total
      movementSequence := (s.pool.movementSequence + 1) % 4294967296 }
    heads := s.heads.modify o.head (forfeitedHead kind o)
    slots := s.slots.set k none
    audit := { s.audit with
      journal := s.audit.journal ++ [{
        sequence := s.pool.movementSequence, kind := entry, day := s.pool.day, port := headPort o.head
        head := some o.head, tag := some o.tag, pieces := some (forfeitPieces o), amount := o.total
        returnedRemainder := some 0, residueAfter := some (forfeitedHead kind o (s.heads.get o.head)).residue
        descendingAfter := s.pool.descending }]
      claimed := s.audit.claimed - 1
      accumulators := accumulate entry (forfeitItems o kind s) s.audit.accumulators } } := by
  have heads : s.heads.modify o.head (settledHead o.tag kind o.total o.total (forfeitPieces o)
      (forfeitResidue o.laneA o.laneB (s.heads.get o.head).residue)) = s.heads.modify o.head (forfeitedHead kind o) := by
    rw [Tab.modify, Tab.modify, settledHead_eq]; rfl
  rw [forfeitSettled, settle_eq, heads]
  simp only [Nat.sub_self, Nat.add_zero]
  rfl

/-- What a forfeit leaves of the whole state, up to the holders, the channels and the notices of the counting. -/
theorem forfeit_eq : forfeit k o kind entry s = { forfeitSettled k o kind entry s with
    channels := (forfeit k o kind entry s).channels, heads := (forfeit k o kind entry s).heads
    notices := { s.notices with pending := (forfeit k o kind entry s).notices.pending } } :=
  (countEvents_spec _ _ _).1

theorem forfeit_slots : (forfeit k o kind entry s).slots = s.slots.set k none := by rw [forfeit_eq]; rfl

theorem forfeitSettled_head (h : Head) : (forfeitSettled k o kind entry s).heads.get h =
    if o.head = h then forfeitedHead kind o (s.heads.get h) else s.heads.get h := by
  rw [forfeitSettled_eq, Tab.get_modify]
  simp only [eq_comm]

/-- What a forfeit makes of a head beside its holders (R14 to R16, R33). -/
theorem forfeit_head (h : Head) : { (forfeit k o kind entry s).heads.get h with
    inhibitHolders := (s.heads.get h).inhibitHolders } =
      if o.head = h then forfeitedHead kind o (s.heads.get h) else s.heads.get h := by
  have counted := head_of_counted ((countEvents_spec (.pieces o.head o.tag) (forfeitPieces o)
    (forfeitSettled k o kind entry s)).2.1 h)
  rw [← forfeit_eq_count, forfeitSettled_head] at counted
  rw [counted]
  split <;> rfl

theorem forfeit_pending {n : SourceNo} (quiet : n ∉ watchSources []) :
    (forfeit k o kind entry s).notices.pending.get n = s.notices.pending.get n :=
  (countEvents_spec _ _ (forfeitSettled k o kind entry s)).2.2.2.2.2 n quiet

/-- The pieces of a forfeit are counted behind the movements counted before (R135). -/
theorem CountedStep.forfeit {moves : List (SourceEvent × Nat)} {r : State} (before : CountedStep moves r s) :
    CountedStep (moves ++ [(.pieces o.head o.tag, forfeitPieces o)]) r (forfeit k o kind entry s) := by
  refine (before.congr (u := forfeitSettled k o kind entry s) rfl (fun h => ?_) rfl fun _ _ => rfl).snoc _ _
  rw [forfeitSettled_head]
  split <;> rfl

end Forfeit

/-! ### The expiry of a hold (R53, R174) -/

theorem isHanded_iff (o : Option OpenImprint) : isHanded o = true ↔ ∃ r, o = some r ∧ r.handed = true := by
  cases o <;> simp [isHanded]

/-- An expiry is left while a slot holds a record whose expiry has been handed. -/
theorem expiryLeft_iff (s : State) :
    (s.slots.first isHanded).isSome = true ↔ ∃ k o, s.slots.get k = some o ∧ o.handed = true := by
  rw [Option.isSome_iff_ne_none, ne_eq, Tab.first_eq_none]
  simp [← isHanded_iff]

theorem waitingBelow_isSome (s : State) :
    (waitingBelow s).isSome = true ↔ ∃ p, p ≤ s.lastServed ∧ (s.links.get p).slot.isSome = true := by
  simp [waitingBelow, firstWaiting, mem_numbers]

theorem expired_not_watchSource : ∀ h, srcImprintExpired h ∉ watchSources [] := by decide

/-- The expiry as a whole: the record is forfeited and IMPRINT_EXPIRED is raised. -/
theorem takeExpiry_eq (k : SlotNo) (o : OpenImprint) (s : State) : takeExpiry k o s =
    { forfeit k o .expired .expiryCharge s with
      notices := { s.notices with pending := (takeExpiry k o s).notices.pending } } := by
  rw [takeExpiry, raiseSource_eq, forfeit_eq]

theorem takeExpiry_pending (k : SlotNo) (o : OpenImprint) (s : State) (n : SourceNo) :
    (takeExpiry k o s).notices.pending.get n = if n = srcImprintExpired o.head then
      afterRaise (srcImprintExpired o.head) (.imprintExpired o.tag o.imprintNumber) s
    else (forfeit k o .expired .expiryCharge s).notices.pending.get n := by
  rw [takeExpiry, raiseSource_pending]
  refine if_congr Iff.rfl (afterRaise_congr (by rw [forfeit_eq]) ?_ _) rfl
  exact forfeit_pending _ _ _ _ _ (expired_not_watchSource _)

/-- An expiry is left behind the one taken while another slot holds a handed record (R174). -/
theorem takeExpiry_left (k : SlotNo) (o : OpenImprint) (s : State) :
    ((takeExpiry k o s).slots.first isHanded).isSome = true ↔
      ∃ j o', j ≠ k ∧ s.slots.get j = some o' ∧ o'.handed = true := by
  rw [expiryLeft_iff, takeExpiry_eq, forfeit_slots]
  refine exists_congr fun j => ?_
  by_cases same : j = k
  · simp [same]
  · simp [same, Tab.get_set_ne]

/-- Settles O42. -/
theorem holdExpiryForfeits : Obligations.HoldExpiryForfeits := by
  intro k o s running turn held
  have ex : exec (.holdExpiry k) s =
      .next { takeExpiry k o s with search := searchAfterExpiry (takeExpiry k o s) } := by
    simp [exec, execHoldExpiry, running, turn, held]
  obtain ⟨t, taken⟩ : ∃ t, t = takeExpiry k o s := ⟨_, rfl⟩
  have left := takeExpiry_left k o s
  have pending := takeExpiry_pending k o s
  have frame := takeExpiry_eq k o s
  rw [← taken] at ex left pending frame
  have heads : t.heads = (forfeit k o .expired .expiryCharge s).heads := by rw [frame]
  have new := forfeit_head k o .expired .expiryCharge s
  rw [← heads] at new
  have audit : t.audit = (forfeitSettled k o .expired .expiryCharge s).audit := by rw [frame, forfeit_eq]
  have waiting := waitingBelow_isSome t
  rw [show t.links = s.links by rw [frame, forfeit_eq]; rfl,
    show t.lastServed = s.lastServed by rw [frame, forfeit_eq]; rfl] at waiting
  refine ⟨_, ex, ?_, fun more => if_pos (left.2 more), fun none_ => ?_, ?_, fun h' other => ?_, ?_, ?_, ?_, fun n hn => ?_, ?_⟩
  · dsimp only
    rw [frame, forfeit_eq]; rfl
  · refine (if_neg fun more => ?_).trans (if_congr waiting rfl rfl)
    obtain ⟨j, o', other, here, handed⟩ := left.1 more
    simp [none_ j o' other here] at handed
  · show t.pool = _
    rw [frame, forfeit_eq, forfeitSettled_eq]
  · exact (new h').trans (if_neg (Ne.symm other))
  · exact (new o.head).trans (if_pos rfl)
  · exact audit.trans (by rw [forfeitSettled_eq]; rfl)
  · refine (((CountedStep.nil s).forfeit k o .expired .expiryCharge s).congr ?_ (fun h => by rw [← heads]) ?_
      fun m hm => ?_).countedAll
    · show t.channels = _
      rw [frame]
    · show t.notices.levels = _
      rw [frame, forfeit_eq]
    · exact (pending m).trans (if_neg fun e => expired_not_watchSource _ (e ▸ hm))
  · obtain ⟨watch, other⟩ := not_mem_watchSources.1 hn
    exact (pending n).trans ((if_neg (by simpa using other)).trans (forfeit_pending _ _ _ _ _ watch))
  · exact (pending _).trans (if_pos rfl)

end Sys2Proof.Machine
end

section
/-! The restart: its charges in slot order, the evaluation of near-full, and the samples of the inputs (R54, R166, R167). -/

namespace Sys2Proof.Machine

open Sys2Proof.Config Sys2Proof.Safety

/-! ### The restart charges (R54) -/

/-- The entry of the `i`-th restart charge of the records `os` on the state `r`. -/
def restartEntry (os : List OpenImprint) (r : State) (i : Nat) (o : OpenImprint) : JournalEntry where
  sequence := sequenceAfter i r.pool.movementSequence
  kind := .restartCharge
  day := r.pool.day
  port := headPort o.head
  head := some o.head
  tag := some o.tag
  pieces := some (forfeitPieces o)
  amount := o.total
  returnedRemainder := some 0
  residueAfter := some (restartedHead o.head (os.take (i + 1)) (r.heads.get o.head)).residue
  descendingAfter := r.pool.descending

/-- The state `u` is what the restart charges of the records `os` leave of `r`, one after another. -/
structure Charged (os : List OpenImprint) (r u : State) : Prop where
  frame : u = { r with
    pool := { r.pool with
      reservedTotal := r.pool.reservedTotal - (os.map OpenImprint.total).sum
      movementSequence := sequenceAfter os.length r.pool.movementSequence }
    heads := u.heads, slots := u.slots, channels := u.channels
    audit := { r.audit with
      journal := u.audit.journal, claimed := r.audit.claimed - os.length
      accumulators := { r.audit.accumulators with heads := u.audit.accumulators.heads } }
    notices := { r.notices with pending := u.notices.pending } }
  heads : ∀ h, { u.heads.get h with inhibitHolders := (r.heads.get h).inhibitHolders } = restartedHead h os (r.heads.get h)
  days : ∀ h, u.audit.accumulators.heads.get h = restartedDay h os (r.audit.accumulators.heads.get h)
  journal : ∃ charges, u.audit.journal = r.audit.journal ++ charges ∧ charges.length = os.length ∧
    ∀ i o, os[i]? = some o → charges[i]? = some (restartEntry os r i o)
  counted : ∀ b, CountedStep [] b r → CountedStep (os.map fun o => (.pieces o.head o.tag, forfeitPieces o)) b u
  quiet : ∀ n, n ∉ watchSources [] → u.notices.pending.get n = r.notices.pending.get n

theorem Charged.nil (r : State) : Charged [] r r :=
  ⟨rfl, fun _ => rfl, fun _ => rfl, ⟨[], by simp⟩, fun _ h => h, fun _ _ => rfl⟩

theorem restartedHead_snoc (h : Head) (os : List OpenImprint) (o : OpenImprint) (r : HeadRecord) :
    restartedHead h (os ++ [o]) r =
      if o.head = h then forfeitedHead .restartCharged o (restartedHead h os r) else restartedHead h os r := by
  simp [restartedHead]

theorem restartedDay_snoc (h : Head) (os : List OpenImprint) (o : OpenImprint) (d : HeadDay) :
    restartedDay h (os ++ [o]) d = if o.head = h then
      settledDay (forfeitPieces o) o.total 0 (restartedDay h os d) else restartedDay h os d := by
  simp [restartedDay, settledDay, max32]

theorem forfeit_restart_audit (k : SlotNo) (o : OpenImprint) (s : State) :
    (forfeit k o .restartCharged .restartCharge s).audit = { s.audit with
      journal := s.audit.journal ++ [{
        sequence := s.pool.movementSequence, kind := .restartCharge, day := s.pool.day, port := headPort o.head
        head := some o.head, tag := some o.tag, pieces := some (forfeitPieces o), amount := o.total
        returnedRemainder := some 0, residueAfter := some (forfeitedHead .restartCharged o (s.heads.get o.head)).residue
        descendingAfter := s.pool.descending }]
      claimed := s.audit.claimed - 1
      accumulators := { s.audit.accumulators with
        heads := s.audit.accumulators.heads.modify o.head (settledDay (forfeitPieces o) o.total 0) } } := by
  rw [forfeit_eq, forfeitSettled_eq]; rfl

theorem forfeit_restart_eq (k : SlotNo) (o : OpenImprint) (s : State) :
    forfeit k o .restartCharged .restartCharge s = { s with
      pool := { s.pool with
        reservedTotal := s.pool.reservedTotal - o.total
        movementSequence := (s.pool.movementSequence + 1) % 4294967296 }
      heads := (forfeit k o .restartCharged .restartCharge s).heads
      slots := (forfeit k o .restartCharged .restartCharge s).slots
      channels := (forfeit k o .restartCharged .restartCharge s).channels
      audit := { s.audit with
        journal := (forfeit k o .restartCharged .restartCharge s).audit.journal, claimed := s.audit.claimed - 1
        accumulators := { s.audit.accumulators with
          heads := (forfeit k o .restartCharged .restartCharge s).audit.accumulators.heads } }
      notices := { s.notices with pending := (forfeit k o .restartCharged .restartCharge s).notices.pending } } := by
  rw [forfeit_eq, forfeitSettled_eq]; rfl

/-- The entries of the earlier charges are not changed by a later one. -/
theorem restartEntry_snoc {os : List OpenImprint} {i : Nat} {o : OpenImprint} (here : os[i]? = some o) (o' : OpenImprint)
    (r : State) : restartEntry (os ++ [o']) r i o = restartEntry os r i o := by
  have within : i + 1 ≤ os.length := (List.getElem?_eq_some_iff.1 here).1
  rw [restartEntry, List.take_append_of_le_length within]; rfl

/-- A further charge. -/
theorem Charged.snoc {os : List OpenImprint} {r u : State} (h : Charged os r u) (k : SlotNo) (o : OpenImprint) :
    Charged (os ++ [o]) r (forfeit k o .restartCharged .restartCharge u) := by
  obtain ⟨frame, heads, days, ⟨charges, journal, length, entries⟩, counted, quiet⟩ := h
  have audit := forfeit_restart_audit k o u
  have newHead : ∀ x, { (forfeit k o .restartCharged .restartCharge u).heads.get x with
      inhibitHolders := (r.heads.get x).inhibitHolders } = restartedHead x (os ++ [o]) (r.heads.get x) := fun x => by
    have new := head_of_counted (forfeit_head k o .restartCharged .restartCharge u x)
    rw [new, restartedHead_snoc, ← heads x]
    split <;> rfl
  have sequence : u.pool.movementSequence = sequenceAfter os.length r.pool.movementSequence := by rw [frame]
  refine ⟨?_, newHead, fun x => ?_, ⟨charges ++ [restartEntry (os ++ [o]) r os.length o], ?_, by simp [length], fun i o' here => ?_⟩,
    ?_, fun n hn => ?_⟩
  · obtain ⟨f, forfeited⟩ : ∃ f, f = forfeit k o .restartCharged .restartCharge u := ⟨_, rfl⟩
    have whole := forfeit_restart_eq k o u
    rw [← forfeited] at whole ⊢
    rw [whole, frame]
    simp only [List.map_append, List.map_cons, List.map_nil, List.sum_append, List.sum_singleton, List.length_append,
      List.length_singleton, Nat.sub_sub]
    rfl
  · rw [audit, Tab.get_modify, restartedDay_snoc, ← days x]
    simp only [eq_comm]
  · have residue : (forfeitedHead .restartCharged o (u.heads.get o.head)).residue =
        (restartedHead o.head (os ++ [o]) (r.heads.get o.head)).residue := by
      rw [restartedHead_snoc, if_pos rfl, ← heads o.head]; rfl
    rw [audit, journal, residue, List.append_assoc, restartEntry, sequence, List.take_of_length_le (by simp)]
    rw [show u.pool.day = r.pool.day by rw [frame], show u.pool.descending = r.pool.descending by rw [frame]]
  · rcases Nat.lt_or_ge i os.length with earlier | last
    · rw [List.getElem?_append_left earlier] at here
      rw [List.getElem?_append_left (length ▸ earlier), entries i o' here, restartEntry_snoc here]
    · rw [List.getElem?_append_right last] at here
      obtain ⟨e, rfl⟩ : i - os.length = 0 ∧ o = o' := by
        rwa [List.getElem?_singleton, Option.ite_none_right_eq_some, Option.some.injEq] at here
      rw [List.getElem?_append_right (length ▸ last), length, e, Nat.le_antisymm (Nat.sub_eq_zero_iff_le.1 e) last]
      rfl
  · intro b before
    simpa using (counted b before).forfeit k o .restartCharged .restartCharge u
  · exact (forfeit_pending _ _ _ _ _ hn).trans (quiet n hn)

/-! ### The charges of all slots (R54) -/

theorem restartCharge_slots (s : State) (k j : SlotNo) :
    (restartCharge s k).slots.get j = if j = k then none else s.slots.get j := by
  unfold restartCharge
  cases held : s.slots.get k with
  | none => by_cases same : j = k <;> simp [same, held]
  | some o => rw [forfeit_slots, Tab.get_set]

theorem restartCharges_slots (ks : List SlotNo) (s : State) (j : SlotNo) :
    (ks.foldl restartCharge s).slots.get j = if j ∈ ks then none else s.slots.get j := by
  induction ks generalizing s with
  | nil => simp
  | cons k ks ih =>
    rw [List.foldl_cons, ih, restartCharge_slots]
    grind

theorem Charged.fold {os : List OpenImprint} {r u : State} (h : Charged os r u) {ks : List SlotNo} (distinct : ks.Nodup)
    (same : ∀ k ∈ ks, u.slots.get k = r.slots.get k) :
    Charged (os ++ ks.filterMap fun k => r.slots.get k) r (ks.foldl restartCharge u) := by
  induction ks generalizing os u with
  | nil => simpa using h
  | cons k ks ih =>
    obtain ⟨fresh, distinct⟩ := List.nodup_cons.1 distinct
    have rest : ∀ j ∈ ks, (restartCharge u k).slots.get j = r.slots.get j := fun j hj => by
      rw [restartCharge_slots, if_neg (ne_of_mem_of_not_mem hj fresh), same j (.tail _ hj)]
    have here := same k (.head _)
    cases held : r.slots.get k with
    | none =>
      have skipped : restartCharge u k = u := by rw [restartCharge, here, held]
      rw [skipped] at rest
      simpa [held, skipped] using ih h distinct rest
    | some o =>
      have charged : restartCharge u k = forfeit k o .restartCharged .restartCharge u := by rw [restartCharge, here, held]
      rw [charged] at rest
      simpa [held, charged] using ih (h.snoc k o) distinct rest

/-- What the restart charges all the open records (R54). -/
theorem charged_all (r : State) : Charged (openRecords r) r ((numbers 16).foldl restartCharge r) := by
  have all := (Charged.nil r).fold (List.nodup_finRange 16) fun _ _ => rfl
  rwa [List.nil_append] at all

theorem openCount_eq_length (s : State) : openCount s = (openRecords s).length := by
  rw [openCount_eq, openRecords, List.length_filterMap_eq_countP, List.countP_eq_length_filter]

/-- A sum over the slots is one over the open records. -/
theorem sum_slots_eq (s : State) {f : Option OpenImprint → Nat} (free : f none = 0) :
    s.slots.sum f = ((openRecords s).map fun o => f (some o)).sum := by
  rw [Tab.sum_eq, openRecords]
  induction List.finRange 16 with
  | nil => rfl
  | cons k ks ih => cases held : s.slots.get k <;> simp [held, free, ih]

/-- The money of a head after the restart charges (R14). -/
theorem restartedHead_money (h : Head) (os : List OpenImprint) (r : HeadRecord) :
    (let sum := (os.map fun o => reserveOfHead h (some o)).sum
     (restartedHead h os r).ascending = r.ascending + sum ∧ (restartedHead h os r).usedToday = r.usedToday + sum ∧
     (restartedHead h os r).headReserved = r.headReserved - sum) := by
  induction os generalizing r with
  | nil => exact ⟨rfl, rfl, rfl⟩
  | cons o os ih =>
    obtain ⟨ascending, used, reserved⟩ := ih (if o.head = h then forfeitedHead .restartCharged o r else r)
    have next : restartedHead h (o :: os) r =
      restartedHead h os (if o.head = h then forfeitedHead .restartCharged o r else r) := rfl
    simp only [next, ascending, used, reserved, List.map_cons, List.sum_cons, reserveOfHead]
    split
    · simp only [forfeitedHead]; omega
    · omega

/-! ### The evaluation of near-full and the samples (R113, R153, R167) -/

theorem rearmNearFull_audit (s : State) :
    (rearmNearFull s).audit = { s.audit with nearFullArmed := decide (32 ≤ journalFree s) } := by
  obtain ⟨low, high, between⟩ := evaluateNearFull_cases (modAudit (fun a => { a with nearFullArmed := true }) s)
  unfold rearmNearFull
  by_cases few : journalFree s < 32
  · rw [(low few rfl).1, decide_eq_false (Nat.not_le.2 few)]; rfl
  · rw [decide_eq_true (Nat.not_lt.1 few)]
    by_cases many : 64 ≤ journalFree s
    · rw [high many]; rfl
    · rw [between (Nat.not_le.1 many) (.inl (Nat.not_lt.1 few))]; rfl

/-- What the evaluation of a restart raises into a notice state that holds nothing for JOURNAL_NEAR_FULL. -/
theorem rearmNearFull_pending {s : State} (levels : s.notices.levels = resetNotices.levels)
    (none_ : s.notices.pending.get srcNearFull = none) : (rearmNearFull s).notices.pending.get srcNearFull =
      if journalFree s < 32 then some ⟨0, .nearFull (journalFree s) s.audit.journal.length s.audit.claimed⟩ else none := by
  obtain ⟨low, high, between⟩ := evaluateNearFull_cases (modAudit (fun a => { a with nearFullArmed := true }) s)
  have level : sourceLevel s.notices srcNearFull ≠ 0 := by
    rw [sourceLevel, levels]; decide
  unfold rearmNearFull
  split
  · rename_i few
    refine (low few rfl).2.trans ?_
    unfold afterRaise
    rw [if_neg (by exact level)]
    simp only [modAudit, none_]
    rfl
  · rename_i enough
    by_cases many : 64 ≤ journalFree s
    · rw [high many]; exact none_
    · rw [between (Nat.not_le.1 many) (.inl (Nat.not_lt.1 enough))]; exact none_

theorem raiseAlarm_fresh {n : SourceNo} (hard : n = 32 ∨ n = 33 ∨ n = 34) {s : State}
    (none_ : s.notices.pending.get n = none) : ∃ lock : Bool, (lock = true ↔ n = 32 ∨ Conflict s.notices n) ∧
      raiseAlarm n s = { s with
        service := alarmTable lock s.service
        notices := { s.notices with
          pending := s.notices.pending.set n (some ⟨0, .alarm s.pool.day s.service.state⟩) } } := by
  obtain ⟨lock, locks, e⟩ := raiseAlarm_table hard s
  rw [none_] at e
  exact ⟨lock, locks, e⟩

theorem sampleTamper_eq (tamper : Bool) {s : State} (none_ : s.notices.pending.get srcTamper = none) :
    sampleTamper tamper s = { s with
      service := if tamper then alarmTable true { s.service with tamperActive := true }
        else { s.service with tamperActive := false }
      notices := { s.notices with
        pending := if tamper then s.notices.pending.set srcTamper (some ⟨0, .alarm s.pool.day s.service.state⟩)
          else s.notices.pending } } := by
  cases tamper with
  | false => rfl
  | true =>
    obtain ⟨lock, locks, e⟩ :=
      raiseAlarm_fresh (n := srcTamper) (.inl rfl) (s := modService (fun v => { v with tamperActive := true }) s) none_
    rw [locks.2 (.inl rfl)] at e
    exact e

theorem sampleSupply_eq (low : Bool) {s : State} {tamper : Bool} (none_ : s.notices.pending.get srcRetentionFault = none)
    (conflict : Conflict s.notices srcRetentionFault ↔ tamper = true) :
    sampleSupply low s = { s with
      service := if low then alarmTable tamper { s.service with supplyLow := true }
        else { s.service with supplyLow := false }
      notices := { s.notices with
        pending := if low then s.notices.pending.set srcRetentionFault (some ⟨0, .alarm s.pool.day s.service.state⟩)
          else s.notices.pending } } := by
  cases low with
  | false => rfl
  | true =>
    obtain ⟨lock, locks, e⟩ := raiseAlarm_fresh (n := srcRetentionFault) (.inr (.inl rfl))
      (s := modService (fun v => { v with supplyLow := true }) s) none_
    have same : lock = tamper := Bool.eq_iff_iff.2 (locks.trans ((or_iff_right (by decide)).trans conflict))
    rw [same] at e
    exact e

/-- TAMPER alone can be in conflict with RETENTION_FAULT, and with empty stacks it must be pending (R153). -/
theorem conflict_retention {u : NoticeUnit} (empty : (u.ports.get 7).stack = []) :
    Conflict u srcRetentionFault ↔ (u.pending.get srcTamper).isSome = true := by
  simp only [Conflict, AlarmStands, empty, List.not_mem_nil, or_false]
  constructor
  · rintro ⟨m, rfl | rfl | rfl, lt, stands⟩
    · exact stands
    · exact absurd lt (by decide)
    · exact absurd lt (by decide)
  · exact fun stands => ⟨32, .inl rfl, by decide, stands⟩

theorem rearmNearFull_eq (s : State) : rearmNearFull s = { s with
    audit := { s.audit with nearFullArmed := decide (32 ≤ journalFree s) }
    notices := { s.notices with pending := (rearmNearFull s).notices.pending } } := by
  rw [← rearmNearFull_audit]
  obtain ⟨armed, r, e, -⟩ := evaluateNearFull_eq (modAudit (fun a => { a with nearFullArmed := true }) s)
  unfold rearmNearFull
  rw [e]
  rfl

theorem alarmTable_state (lock : Bool) {v v' : Service} (same : v.state = v'.state) :
    (alarmTable lock v).state = (alarmTable lock v').state := by
  unfold alarmTable
  rw [same]
  cases v'.state <;> cases lock <;> simp [same]

/-- A part that TAMPER has locked stays so when the supply is low too (R153). -/
theorem sampledService {v : Service} (running : v.state ≠ .halted) (tamper low : Bool) :
    (if low then alarmTable tamper { (if tamper then alarmTable true { v with tamperActive := true }
        else { v with tamperActive := false }) with supplyLow := true }
      else { (if tamper then alarmTable true { v with tamperActive := true }
        else { v with tamperActive := false }) with supplyLow := false }) =
    if tamper then
      if tamper then alarmTable true { v with tamperActive := tamper, supplyLow := low }
      else { v with tamperActive := tamper, supplyLow := low }
    else if low then alarmTable false { v with tamperActive := tamper, supplyLow := low }
    else { v with tamperActive := tamper, supplyLow := low } := by
  obtain ⟨state, back, active, supply, lost⟩ := v
  cases state <;> cases tamper <;> cases low <;> simp_all [alarmTable]

/-- The samples of both inputs into a notice state without alarms (R167). -/
theorem samples_eq (tamper low : Bool) {s : State} (empty : (s.notices.ports.get 7).stack = [])
    (noTamper : s.notices.pending.get srcTamper = none) (noRetention : s.notices.pending.get srcRetentionFault = none)
    (running : s.service.state ≠ .halted) :
    (let v : Service := { s.service with tamperActive := tamper, supplyLow := low }
     let v' := if tamper then alarmTable true v else v
     let t := sampleSupply low (sampleTamper tamper s)
     t = { s with
       service := if tamper then v' else if low then alarmTable false v else v
       notices := { s.notices with pending := t.notices.pending } } ∧
     t.notices.pending.get srcTamper = (if tamper then some ⟨0, .alarm s.pool.day v.state⟩ else none) ∧
     t.notices.pending.get srcRetentionFault = (if low then some ⟨0, .alarm s.pool.day v'.state⟩ else none) ∧
     ∀ n, n ≠ srcTamper → n ≠ srcRetentionFault → t.notices.pending.get n = s.notices.pending.get n) := by
  have sampled := sampleTamper_eq tamper noTamper
  obtain ⟨u, seen⟩ : ∃ u, u = sampleTamper tamper s := ⟨_, rfl⟩
  rw [← seen] at sampled
  have pending : ∀ n, u.notices.pending.get n = if n = srcTamper ∧ tamper = true then
      some ⟨0, .alarm s.pool.day s.service.state⟩ else s.notices.pending.get n := fun n => by
    rw [sampled]
    cases tamper <;> simp [Tab.get_set]
  have conflict : Conflict u.notices srcRetentionFault ↔ tamper = true := by
    rw [conflict_retention (by rw [sampled]; exact empty), pending]
    cases tamper <;> simp [noTamper]
  have whole := sampleSupply_eq low (s := u)
    ((pending _).trans ((if_neg fun e => absurd e.1 (by decide)).trans noRetention)) conflict
  have pending' : ∀ n, (sampleSupply low u).notices.pending.get n = if n = srcRetentionFault ∧ low = true then
      some ⟨0, .alarm u.pool.day u.service.state⟩ else u.notices.pending.get n := fun n => by
    rw [whole]
    cases low <;> simp [Tab.get_set]
  have day : u.pool.day = s.pool.day := by rw [sampled]
  dsimp only
  rw [← seen]
  refine ⟨?_, ?_, ?_, fun n tamperOther retentionOther => ?_⟩
  · rw [whole, sampled]
    dsimp only
    rw [sampledService running]
  · rw [pending', if_neg fun e => absurd e.1 (by decide), pending, noTamper]
    simp
  · rw [pending', pending, if_neg fun e : srcRetentionFault = srcTamper ∧ _ => absurd e.1 (by decide), noRetention, day, sampled]
    cases tamper with
    | false => simp
    | true =>
      have state := alarmTable_state true (v := { s.service with tamperActive := true })
        (v' := { s.service with tamperActive := true, supplyLow := low }) rfl
      simp [state]
  · rw [pending', if_neg fun e => retentionOther e.1, pending, if_neg fun e => tamperOther e.1]

/-- The service record that a restart leaves before the samples (R167). -/
theorem resetContexts_service (s : State) : (resetContexts s).service = { s.service with
    state := if s.service.state = .halted then .inService else s.service.state, timeBaseLost := false } := by
  have state : restartState s.service.state = if s.service.state = .halted then .inService else s.service.state := by
    cases s.service.state <;> rfl
  rw [← state]
  rfl

/-- The restart as a whole: the charges into the reset contexts, the evaluation of near-full, and the samples. -/
theorem restart_spec (tamper low : Bool) (s : State) : ∃ u t, exec (.restart tamper low) s = .next t ∧
    Charged (openRecords s) (resetContexts s) u ∧ (∀ k, u.slots.get k = none) ∧
    (let v : Service := { s.service with
       state := if s.service.state = .halted then .inService else s.service.state
       tamperActive := tamper, supplyLow := low, timeBaseLost := false }
     let v' := if tamper then alarmTable true v else v
     t = { u with
       audit := { u.audit with nearFullArmed := decide (32 ≤ journalFree u) }
       service := if tamper then v' else if low then alarmTable false v else v
       notices := { u.notices with pending := t.notices.pending } } ∧
     t.notices.pending.get srcNearFull = (if journalFree u < 32 then
       some ⟨0, .nearFull (journalFree u) u.audit.journal.length u.audit.claimed⟩ else none) ∧
     t.notices.pending.get srcTamper = (if tamper then some ⟨0, .alarm s.pool.day v.state⟩ else none) ∧
     t.notices.pending.get srcRetentionFault = (if low then some ⟨0, .alarm s.pool.day v'.state⟩ else none) ∧
     ∀ n, n ≠ srcNearFull → n ≠ srcTamper → n ≠ srcRetentionFault →
       t.notices.pending.get n = u.notices.pending.get n) := by
  obtain ⟨u, charges⟩ : ∃ u, u = (numbers 16).foldl restartCharge (resetContexts s) := ⟨_, rfl⟩
  obtain ⟨w, evaluated⟩ : ∃ w, w = rearmNearFull u := ⟨_, rfl⟩
  obtain ⟨t, done⟩ : ∃ t, t = sampleSupply low (sampleTamper tamper w) := ⟨_, rfl⟩
  have ex : exec (.restart tamper low) s = .next t := by rw [done, evaluated, charges]; rfl
  have charged : Charged (openRecords s) (resetContexts s) u := charges ▸ charged_all (resetContexts s)
  have closed : ∀ k, u.slots.get k = none := fun k => by
    rw [charges]; exact (restartCharges_slots ..).trans (if_pos (mem_numbers k))
  have levels : u.notices.levels = resetNotices.levels := (congrArg (fun x => x.notices.levels) charged.frame :)
  have ports : u.notices.ports = resetNotices.ports := (congrArg (fun x => x.notices.ports) charged.frame :)
  have day : u.pool.day = s.pool.day := (congrArg (fun x => x.pool.day) charged.frame :)
  have service : u.service = (resetContexts s).service := (congrArg State.service charged.frame :)
  rw [resetContexts_service] at service
  have none_ : ∀ n, n ∉ watchSources [] → u.notices.pending.get n = none := fun n hn =>
    (charged.quiet n hn).trans (Tab.get_fill ..)
  have whole := rearmNearFull_eq u
  have full := rearmNearFull_pending levels (none_ _ (by decide))
  have wPending : ∀ n, n ≠ srcNearFull → w.notices.pending.get n = u.notices.pending.get n := fun n hn => by
    rw [evaluated]; exact evaluateNearFull_pending _ hn
  rw [← evaluated] at whole full
  have wService : w.service = u.service := (congrArg State.service whole :)
  have running : (if s.service.state = .halted then .inService else s.service.state) ≠ .halted := by
    split
    · decide
    · assumption
  have sampled := samples_eq tamper low (s := w) (by rw [congrArg (fun x => x.notices.ports) whole, ports]; rfl)
    ((wPending _ (by decide)).trans (none_ _ (by decide))) ((wPending _ (by decide)).trans (none_ _ (by decide)))
    (by rw [wService, service]; exact running)
  rw [← done, wService, service, congrArg (fun x => x.pool.day) whole, day] at sampled
  obtain ⟨frame, tamperAlarm, retention, others⟩ := sampled
  refine ⟨u, t, ex, charged, closed, ?_, (others _ (by decide) (by decide)).trans full, tamperAlarm, retention,
    fun n full tamper retention => (others n tamper retention).trans (wPending n full)⟩
  rw [frame, whole]

theorem watchSource_ne : ∀ n ∈ watchSources [], n ≠ srcNearFull ∧ n ≠ srcTamper ∧ n ≠ srcRetentionFault := by decide

/-- Settles O45. -/
theorem restartSteps : Obligations.RestartSteps := by
  intro tamper low s
  obtain ⟨u, t, ex, ⟨frame, heads, days, journal, counted, quiet⟩, closed, whole, full, tamperAlarm, retention, others⟩ :=
    restart_spec tamper low s
  have audit : t.audit = { u.audit with nearFullArmed := decide (32 ≤ journalFree u) } := (congrArg State.audit whole :)
  have free : 512 - t.audit.journal.length - t.audit.claimed = journalFree u := by rw [audit]; rfl
  have uAudit := (congrArg State.audit frame :)
  have tHeads : t.heads = u.heads := (congrArg State.heads whole :)
  have reset : t.links = (resetContexts s).links ∧ t.lastServed = 7 ∧ t.search = .fresh ∧ t.resetHeld = false ∧
      t.pending = s.pending ∧ t.notices.ports = resetNotices.ports ∧ t.notices.levels = resetNotices.levels ∧
      t.rates = s.rates ∧ t.stock = s.stock ∧ t.stockDay = s.stockDay := by
    have reset : u.links = (resetContexts s).links ∧ u.lastServed = 7 ∧ u.search = .fresh ∧ u.resetHeld = false ∧
        u.pending = s.pending ∧ u.notices.ports = resetNotices.ports ∧ u.notices.levels = resetNotices.levels ∧
        u.rates = s.rates ∧ u.stock = s.stock ∧ u.stockDay = s.stockDay := by
      rw [frame]
      exact ⟨rfl, rfl, rfl, rfl, rfl, rfl, rfl, rfl, rfl, rfl⟩
    rw [whole]
    exact reset
  refine ⟨t, ex, ?_⟩
  dsimp only
  rw [free]
  obtain ⟨links, lastServed, search, resetHeld, queue, ports, levels, rates, stock, stockDay⟩ := reset
  refine ⟨fun k => ?_, ?_, fun h => ?_, fun h => ?_, rates, stock, stockDay, ?_, fun h => ?_,
    ?_, ?_, ?_, tamperAlarm, retention,
    fun n hn => ?_, links, lastServed, search, resetHeld, queue, ports, fun n => ?_, ?_⟩
  · rw [congrArg State.slots whole]; exact closed k
  · rw [sum_slots_eq s rfl, congrArg State.pool whole, congrArg State.pool frame]; rfl
  · rw [tHeads]; exact heads h
  · have money := restartedHead_money h (openRecords s) (s.heads.get h)
    rw [← sum_slots_eq s rfl] at money
    obtain ⟨ascending, used, reserved⟩ := money
    have new := heads h
    rw [tHeads]
    exact ⟨(congrArg HeadRecord.ascending new :).trans ascending, (congrArg HeadRecord.usedToday new :).trans used,
      (congrArg HeadRecord.headReserved new :).trans reserved⟩
  · rw [audit, uAudit, openCount_eq_length]; rfl
  · rw [audit]; exact days h
  · rw [audit, openCount_eq_length]; exact journal
  · have before : CountedStep [] { s with notices := resetNotices } (resetContexts s) :=
      (CountedStep.nil _).congr rfl (fun _ => rfl) rfl fun _ _ => rfl
    refine ((counted _ before).congr (congrArg State.channels whole :) (fun h => by rw [tHeads]) ?_ fun n hn => ?_).countedAll
    · exact congrArg (fun x => x.notices.levels) whole
    · obtain ⟨full, tamper, retention⟩ := watchSource_ne n hn
      exact others n full tamper retention
  · rw [audit]; exact full
  · obtain ⟨watch, rest⟩ := not_mem_watchSources.1 hn
    obtain ⟨full, tamper, retention⟩ : n ≠ srcNearFull ∧ n ≠ srcTamper ∧ n ≠ srcRetentionFault := by simpa using rest
    rw [others n full tamper retention, quiet n watch]
    exact Tab.get_fill ..
  · rw [levels]; exact resetLevels_get n
  · exact congrArg State.service whole

end Sys2Proof.Machine
end

section
/-! The links and the arbiter: the course of a request, SEND, and whose turn it is (R169, R171, R172, R174, R175). -/

namespace Sys2Proof.Machine

open Sys2Proof.Config Sys2Proof.Safety

/-! ### What the link answers itself (R155, R172) -/

/-- The whole state after an answer of the link with a code of the framing class, which every fault record keeps. -/
theorem linkAnswer_eq {p : Port} {code : ReplyCode} {number : Option Byte} {u : State}
    (framing : ∀ f, isRecorded f code = true) : linkAnswer p code number u = { u with
      links := (u.links.modify p fun l => { l with reply := some ⟨code, number.getD 0, clearFlags, .none⟩ }).modify p
        fun l => { l with fault := { l.fault with sticky := true, code := some code, number := number } }
      notices := { u.notices with
        pending := u.notices.pending.set (srcPortFault p) (afterRaise (srcPortFault p) (.portFault code number) u) } } := by
  unfold linkAnswer recordRefusal
  rw [if_pos (framing _), raiseSource_eq]
  rfl

/-- A frame that the link answers with a code of the framing class is recorded, whatever the enables (R155). -/
theorem linkAnswer_answered {p : Port} {l : PortLink} {code : ReplyCode} {number : Option Byte} {s u : State}
    (framing : ∀ f, isRecorded f code = true) (frame : u = { s with links := u.links })
    (link : u.links.get p = { l with overrun := false, reply := none })
    (others : ∀ p', p' ≠ p → u.links.get p' = s.links.get p') :
    LinkAnswered p l code number s (linkAnswer p code number u) := by
  have notices : u.notices = s.notices := (congrArg State.notices frame :)
  rw [linkAnswer_eq framing]
  refine ⟨?_, ?_, fun p' other => ?_, ?_, fun n hn => ?_⟩
  · rw [frame]
  · simp [link, clearFlags]
  · simp [Tab.get_modify_ne _ _ other, others p' other]
  · exact (Tab.get_set_self ..).trans (afterRaise_congr (by rw [notices]) (by rw [notices]) _)
  · exact (Tab.get_set_ne _ _ (by simpa using hn)).trans (by rw [notices])

theorem isRecorded_format (f : FaultRecord) : isRecorded f .format = true := rfl

theorem isRecorded_role (f : FaultRecord) : isRecorded f .role = true := rfl

/-! ### SEND (R169, R171, R172) -/

theorem lengthFits_eq_false (f : List Byte) :
    (!lengthFits f) = true ↔ byteAt f 0 = 0 ∨ f.length ≠ 4 * byteAt f 0 ∨ 64 < f.length := by
  have room : slotBytes = 64 := rfl
  rw [Bool.not_eq_true', Bool.eq_false_iff, ne_eq]
  simp only [lengthFits, Bool.and_eq_true, decide_eq_true_eq]
  omega

theorem not_roleAllows (p : Port) (code : Nat) : (!roleAllows p code) = true ↔ ¬MaySend p code := by
  rw [Bool.not_eq_true', ← roleAllows_iff, Bool.not_eq_true]

/-- The link has taken a frame at port `p`: nothing else changed, OVERRUN is clear, and an unread reply is discarded (R171). -/
theorem takeFrame_eq {p : Port} {l : PortLink} {s u : State} (clocked : u = { s with links := s.links.set p l }) :
    takeFrame p u = { s with links := s.links.set p { l with overrun := false, reply := none } } := by
  subst clocked
  simp [takeFrame, modLink, Tab.modify]

/-- Settles O5. -/
theorem sendTaken : Obligations.SendTaken := by
  intro p f s running l
  obtain ⟨u, clocked⟩ : ∃ u, u = clockOut p [] s := ⟨_, rfl⟩
  have frame : u = { s with links := s.links.set p l } := clocked
  have link : u.links.get p = l := by rw [frame]; exact Tab.get_set_self ..
  have taken := takeFrame_eq frame
  refine ⟨fun empty => ?_, fun bytes => ?_⟩
  · rw [← frame, clocked, empty]
    simp [exec, execSend, running]
  · have ex : exec (.send p f) s = .next (receiveFrame p f u) := by
      rw [clocked]; simp [exec, execSend, running, bytes]
    have answered {code : ReplyCode} (framing : ∀ f, isRecorded f code = true) :
        LinkAnswered p l code f[2]? s (linkAnswer p code f[2]? (takeFrame p u)) := by
      rw [taken]
      exact linkAnswer_answered framing rfl (Tab.get_set_self ..) fun p' other => Tab.get_set_ne _ _ other
    refine ⟨_, ex, ?_⟩
    unfold receiveFrame
    rw [link]
    by_cases busy : l.slot.isSome = true
    · rw [if_pos busy, if_pos busy, frame]
      simp [discardFrame, modLink, Tab.modify]
    rw [if_neg busy, if_neg busy]
    by_cases length : byteAt f 0 = 0 ∨ f.length ≠ 4 * byteAt f 0 ∨ 64 < f.length
    · rw [if_pos length, if_pos ((lengthFits_eq_false f).2 length)]
      exact answered isRecorded_format
    rw [if_neg length, if_neg (mt (lengthFits_eq_false f).1 length)]
    by_cases role : MaySend p (byteAt f 1)
    · rw [if_neg (not_not.2 role), if_neg (mt (not_roleAllows p _).1 (not_not.2 role)), taken]
      simp [fillSlot, modLink, Tab.modify]
    · rw [if_pos role, if_pos ((not_roleAllows p _).2 role)]
      exact answered isRecorded_role

/-! ### The course of a request (R171, R172) -/

theorem commandLengthFits_eq_false (c : Instr) :
    (!commandLengthFits c) = true ↔ ∃ g, requestGroups c = some g ∧ (g = 0 ∨ 16 < g) := by
  have room : slotBytes = 64 := rfl
  unfold commandLengthFits
  cases requestGroups c with
  | none => simp
  | some g =>
    simp only [Option.some.injEq, exists_eq_left', Bool.not_eq_true', Bool.eq_false_iff, ne_eq, Bool.and_eq_true,
      decide_eq_true_eq]
    omega

theorem slotCarries_command (c : Instr) (q : Req) : slotCarries (.command c) c q = true := decide_eq_true rfl

/-- A request that waits in its slot is left waiting, or discarded for another one, or at its turn (R171, R174). -/
theorem serve_waiting {c : Instr} {q : Req} {engine : State → Answer} {s : State} {w : SlotContent} (running : s.resetHeld = false)
    (waits : (s.links.get q.port).slot = some w) :
    serve c q engine s = if slotCarries w c q then atTurn c q engine s else discardFrame q.port s := by
  simp [serve, running, waits]

/-- A request command whose slot is empty brings its frame (R171, R172). -/
theorem serve_arriving {c : Instr} {q : Req} {engine : State → Answer} {s : State} (running : s.resetHeld = false)
    (empty : (s.links.get q.port).slot = none) :
    serve c q engine s =
      if !commandLengthFits c then linkAnswer q.port .format (some q.number) (takeFrame q.port s)
      else if !roleAllows q.port (requestCode c) then linkAnswer q.port .role (some q.number) (takeFrame q.port s)
      else atTurn c q engine (fillSlot q.port (.command c) (takeFrame q.port s)) := by
  simp [serve, running, empty]

/-- The course of a request command, case by case. -/
theorem request_course {c : Instr} {q : Req} (s : State) (request : requestHeader c = some q) :
    (let badLength := ∃ g, requestGroups c = some g ∧ (g = 0 ∨ 16 < g)
     (s.resetHeld = true → exec c s = .next s) ∧
     (s.resetHeld = false →
      ((s.links.get q.port).slot = none → ¬badLength → MaySend q.port (requestCode c) →
        exec c s = exec c { s with links := s.links.modify q.port fun l =>
          { l with slot := some (.command c), reply := none, overrun := false } }) ∧
      ((s.links.get q.port).slot = none → badLength ∨ ¬MaySend q.port (requestCode c) →
        ∃ t code, exec c s = .next t ∧ (badLength → code = .format) ∧ (¬badLength → code = .role) ∧
          LinkAnswered q.port (s.links.get q.port) code (some q.number) s t) ∧
      (∀ w, (s.links.get q.port).slot = some w → slotCarries w c q = true → nextTurn s ≠ some (.request q.port) →
        exec c s = .next s) ∧
      (∀ w, (s.links.get q.port).slot = some w → slotCarries w c q = false →
        exec c s = .next { s with links := s.links.modify q.port fun l => { l with overrun := true } }))) := by
  rw [exec_request request]
  refine ⟨fun held => by simp [serve, held], fun running => ⟨fun empty good role => ?taken, fun empty refused => ?answered,
    fun w waits carries out => ?waits, fun w waits other => ?discarded⟩⟩
  case taken =>
    have arrived : fillSlot q.port (.command c) (takeFrame q.port s) = { s with links := s.links.modify q.port fun l =>
        { l with slot := some (.command c), reply := none, overrun := false } } := by
      simp [fillSlot, takeFrame, modLink, Tab.modify]
    rw [exec_request request, ← arrived, serve_arriving running empty, if_neg (mt (commandLengthFits_eq_false c).1 good),
      if_neg (mt (not_roleAllows _ _).1 (not_not.2 role)), serve_waiting (w := .command c) (by rw [arrived]; exact running)
        (by rw [arrived]; simp), if_pos (slotCarries_command c q)]
  case answered =>
    have answered {code : ReplyCode} (framing : ∀ f, isRecorded f code = true) :
        LinkAnswered q.port (s.links.get q.port) code (some q.number) s
          (linkAnswer q.port code (some q.number) (takeFrame q.port s)) :=
      linkAnswer_answered framing rfl (Tab.get_modify_self ..) fun p' other => Tab.get_modify_ne _ _ other
    rw [serve_arriving running empty]
    by_cases bad : ∃ g, requestGroups c = some g ∧ (g = 0 ∨ 16 < g)
    · rw [if_pos ((commandLengthFits_eq_false c).2 bad)]
      exact ⟨_, .format, rfl, fun _ => rfl, fun good => absurd bad good, answered isRecorded_format⟩
    · rw [if_neg (mt (commandLengthFits_eq_false c).1 bad), if_pos ((not_roleAllows _ _).2 (refused.resolve_left bad))]
      exact ⟨_, .role, rfl, fun h => absurd h bad, fun _ => rfl, answered isRecorded_role⟩
  case waits => rw [serve_waiting running waits, if_pos carries, atTurn, if_neg out]
  case discarded => rw [serve_waiting running waits, other]; rfl

/-! ### Whose turn it is (R174) -/

/-- The first waiting port of those that `p` names is the lowest. -/
theorem firstWaiting_eq_some {s : State} {P : Port → Bool} {x : Port} (named : P x = true)
    (waits : (s.links.get x).slot.isSome = true)
    (least : ∀ y, P y = true ∧ (s.links.get y).slot.isSome = true → x ≤ y) :
    firstWaiting s ((numbers 8).filter P) = some x := by
  rw [firstWaiting, List.find?_filter, numbers, List.find?_eq_some_iff_getElem]
  refine ⟨by simp [named, waits], x.val, by simp, by simp, fun j hj => ?_⟩
  simp only [List.getElem_finRange, Bool.not_eq_true']
  refine Bool.eq_false_iff.2 fun h => ?_
  have low : x ≤ (⟨j, by omega⟩ : Port) := least _ (by simpa using h)
  exact absurd hj (Nat.not_lt.2 low)

theorem firstWaiting_eq_none {s : State} {P : Port → Bool}
    (none_ : ∀ y, ¬(P y = true ∧ (s.links.get y).slot.isSome = true)) : firstWaiting s ((numbers 8).filter P) = none := by
  rw [firstWaiting, List.find?_eq_none]
  simpa [mem_numbers] using none_

theorem firstHanded_eq_some {s : State} {k : SlotNo} (handed : ∃ o, s.slots.get k = some o ∧ o.handed = true)
    (least : ∀ j, (∃ o, s.slots.get j = some o ∧ o.handed = true) → k ≤ j) : s.slots.first isHanded = some k :=
  Tab.first_eq_some.2 ⟨(isHanded_iff _).2 handed, fun j hj => Bool.eq_false_iff.2 fun h =>
    absurd (least j ((isHanded_iff _).1 h)) (Nat.not_le.2 hj)⟩

theorem firstHanded_eq_none {s : State} (none_ : ∀ k, ¬∃ o, s.slots.get k = some o ∧ o.handed = true) :
    s.slots.first isHanded = none :=
  Tab.first_eq_none.2 fun k => Bool.eq_false_iff.2 fun h => none_ k ((isHanded_iff _).1 h)

theorem nextTurn_fresh (s : State) : nextTurn { s with search := .fresh } = freshTurn s := rfl

/-- A waiting port up to the last-served one is the turn of a search that has passed the expiries, and the lowest is. -/
theorem waitingBelow_eq_some {s : State} {p : Port} (waits : p ≤ s.lastServed ∧ (s.links.get p).slot.isSome = true)
    (least : ∀ y, y ≤ s.lastServed ∧ (s.links.get y).slot.isSome = true → p ≤ y) : waitingBelow s = some p :=
  firstWaiting_eq_some (decide_eq_true waits.1) waits.2 fun y h => least y (by simpa using h)

theorem waitingBelow_eq_none {s : State} (none_ : ∀ y, ¬(y ≤ s.lastServed ∧ (s.links.get y).slot.isSome = true)) :
    waitingBelow s = none :=
  firstWaiting_eq_none (by simpa using none_)

/-- Where the search stands decides what it finds (R174). -/
theorem turn_found (s : State) :
    (let above := fun (p : Port) => s.lastServed < p ∧ (s.links.get p).slot.isSome = true
     let below := fun (p : Port) => p ≤ s.lastServed ∧ (s.links.get p).slot.isSome = true
     let handed := fun (k : SlotNo) => ∃ o, s.slots.get k = some o ∧ o.handed = true
     (s.search = .fresh →
       (∀ p, above p → (∀ p', above p' → p ≤ p') → nextTurn s = some (.request p)) ∧
       ((∀ p, ¬above p) →
         (∀ k, handed k → (∀ j, handed j → k ≤ j) → nextTurn s = some (.expiry k)) ∧
         ((∀ k, ¬handed k) →
           (∀ p, below p → (∀ p', below p' → p ≤ p') → nextTurn s = some (.request p)) ∧
           ((∀ p, ¬below p) → nextTurn s = none)))) ∧
     (s.search = .atExpiries →
       (∀ k, handed k → (∀ j, handed j → k ≤ j) → nextTurn s = some (.expiry k)) ∧
       ((∀ k, ¬handed k) → nextTurn s = nextTurn { s with search := .fresh })) ∧
     (s.search = .pastExpiries →
       (∀ p, below p → (∀ p', below p' → p ≤ p') → nextTurn s = some (.request p)) ∧
       ((∀ p, ¬below p) → nextTurn s = nextTurn { s with search := .fresh }))) := by
  refine ⟨fun fresh => ⟨fun p waits least => ?_, fun noneAbove => ?_⟩,
    fun expiries => ⟨fun k handed least => ?_, fun none_ => ?_⟩, fun past => ⟨fun p waits least => ?_, fun none_ => ?_⟩⟩
  · have found : waitingAbove s = some p :=
      firstWaiting_eq_some (decide_eq_true waits.1) waits.2 fun y h => least y (by simpa using h)
    simp [nextTurn, fresh, freshTurn, found]
  · have found : waitingAbove s = none := firstWaiting_eq_none (by simpa using noneAbove)
    refine ⟨fun k handed least => ?_, fun noneHanded => ⟨fun p waits least => ?_, fun noneBelow => ?_⟩⟩
    · simp [nextTurn, fresh, freshTurn, found, firstHanded_eq_some handed least]
    · simp [nextTurn, fresh, freshTurn, found, firstHanded_eq_none noneHanded, waitingBelow_eq_some waits least]
    · simp [nextTurn, fresh, freshTurn, found, firstHanded_eq_none noneHanded, waitingBelow_eq_none noneBelow]
  · simp [nextTurn, expiries, firstHanded_eq_some handed least]
  · rw [nextTurn_fresh]
    simp [nextTurn, expiries, firstHanded_eq_none none_]
  · simp [nextTurn, past, waitingBelow_eq_some waits least]
  · rw [nextTurn_fresh]
    simp [nextTurn, past, waitingBelow_eq_none none_]

theorem portHead_headPort : ∀ (p : Port) (h : Head), (portHead p = some h ↔ p.val = h.val) ∧ (headPort h).val = h.val := by
  decide

/-- Settles O3. -/
theorem requestTurn : Obligations.RequestTurn := by
  refine ⟨?codes, portHead_headPort, fun _ _ s request => request_course s request, turn_found⟩
  case codes =>
    intros
    exact ⟨rfl, rfl⟩

end Sys2Proof.Machine
end

section
/-! STATUS and READ: the status byte, the reply frames and how they clock out (R169, R170, R173, R176, R177). -/

namespace Sys2Proof.Machine

open Sys2Proof.Config Sys2Proof.Safety

/-! ### Bytes of four marks (R170, R176) -/

/-- The bits of a byte that holds four marks. -/
theorem marks_getLsbD (a b c d : Bool) :
    (let x : Byte := BitVec.ofNat 8 (a.toNat + 2 * b.toNat + 4 * c.toNat + 8 * d.toNat)
     x.getLsbD 0 = a ∧ x.getLsbD 1 = b ∧ x.getLsbD 2 = c ∧ x.getLsbD 3 = d ∧ ∀ i, 4 ≤ i → x.getLsbD i = false) := by
  have low : ∀ a b c d : Bool,
      (let x : Byte := BitVec.ofNat 8 (a.toNat + 2 * b.toNat + 4 * c.toNat + 8 * d.toNat)
       x.getLsbD 0 = a ∧ x.getLsbD 1 = b ∧ x.getLsbD 2 = c ∧ x.getLsbD 3 = d ∧ ∀ i < 8, 4 ≤ i → x.getLsbD i = false) := by
    decide
  obtain ⟨zero, one, two, three, rest⟩ := low a b c d
  refine ⟨zero, one, two, three, fun i above => ?_⟩
  rcases Nat.lt_or_ge i 8 with within | beyond
  · exact rest i within above
  · exact BitVec.getLsbD_of_ge _ _ beyond

/-! ### Numbers in frames (R172) -/

@[simp] theorem bigEndian_length (w v : Nat) : (bigEndian w v).length = w := by
  induction w with
  | zero => rfl
  | succ w ih => simp [bigEndian, ih]

/-- The bytes of a number, read on from `a`, most significant byte first. -/
theorem foldl_bigEndian (w v a : Nat) :
    (bigEndian w v).foldl (fun n b => 256 * n + b.toNat) a = 256 ^ w * a + v % 256 ^ w := by
  induction w generalizing a with
  | zero => simp [bigEndian, Nat.mod_one]
  | succ w ih =>
    have split : v % (256 ^ w * 256) = v % 256 ^ w + 256 ^ w * (v / 256 ^ w % 256) := Nat.mod_mul
    have next : (256 : Nat) ^ (w + 1) = 256 ^ w * 256 := Nat.pow_succ ..
    have byte : (2 : Nat) ^ 8 = 256 := rfl
    rw [bigEndian, List.foldl_cons, ih, BitVec.toNat_ofNat, next, split, byte]
    ring

/-- The bytes of fields one after another. -/
def fieldsBytes (fs : List (Nat × Nat)) : List Byte := fs.flatMap fun f => bigEndian f.1 f.2

theorem numberAt_eq (front back : List Byte) (w v : Nat) (fits : v < 256 ^ w) :
    numberAt (front ++ (bigEndian w v ++ back)) front.length w = v := by
  rw [numberAt, List.drop_left, List.take_left' (bigEndian_length w v), foldl_bigEndian, Nat.mod_eq_of_lt fits]
  simp

/-- A frame whose bytes are those of the fields, behind some bytes, holds them there. -/
theorem laidOut_of_bytes {f front back : List Byte} {fs : List (Nat × Nat)} {i : Nat}
    (bytes : f = front ++ (fieldsBytes fs ++ back)) (place : front.length = i) : LaidOut f i fs := by
  induction fs generalizing front i with
  | nil => trivial
  | cons field fs ih =>
    obtain ⟨w, v⟩ := field
    have bytes : f = front ++ (bigEndian w v ++ (fieldsBytes fs ++ back)) := by
      rw [bytes]; simp [fieldsBytes]
    refine ⟨fun fits => ?_, ih (front := front ++ bigEndian w v) ?_ ?_⟩
    · rw [bytes, ← place]; exact numberAt_eq _ _ w v fits
    · rw [bytes, List.append_assoc]
    · rw [List.length_append, place, bigEndian_length]

/-! ### Reply frames (R176, R177) -/

/-- The bytes of a notice's detail are those of its fields, but for the byte of an absent request number (log 31). -/
theorem detailBytes_eq (d : Detail) : (∃ free, detailBytes d = fieldsBytes (detailFields d) ++ free) ∧
    (detailBytes d).length = detailSize d ∧ detailSize d ≤ 18 := by
  cases d with
  | watchZero c n ev => cases ev <;> simp [detailBytes, detailFields, fieldsBytes, detailSize]
  | portFault code number =>
    cases number with
    | none => exact ⟨⟨[absentNumber], rfl⟩, rfl, show 3 ≤ 18 by decide⟩
    | some n => simp [detailBytes, detailFields, fieldsBytes, detailSize, bigEndian_one]
  | alarm day state => cases state <;> simp [detailBytes, detailFields, fieldsBytes, detailSize, stateNumber]
  | _ => simp [detailBytes, detailFields, fieldsBytes, detailSize]

theorem replyLength_bounds (r : Reply) : 1 ≤ replyLength r ∧ replyLength r ≤ 255 ∧ (r.body ≠ .none → 2 ≤ replyLength r) := by
  unfold replyLength
  split
  · rename_i none_; simp [none_]
  · simp
  · simp
  · have := (replyGroups r.body).isLt
    omega

theorem padTo_length {n : Nat} {bs : List Byte} (fits : bs.length ≤ n) : (padTo n bs).length = n := by
  rw [padTo, List.length_append, List.length_replicate]; omega

/-- The fields of a notice record (R177). -/
def noticeFields (n : NoticeRecord) : List (Nat × Nat) :=
  [(1, n.source.val), (1, n.level), (1, n.pushed), (1, n.again), (1, n.stillPending), (1, n.newTop)]

theorem noticeBytes_eq (n : NoticeRecord) : noticeBytes n =
    fieldsBytes (noticeFields n) ++ (detailBytes n.detail ++ List.replicate (18 - detailSize n.detail) 0) := by
  have size := (detailBytes_eq n.detail).2.1
  simp only [noticeBytes, padTo, noticeFields, fieldsBytes, List.flatMap_cons, List.flatMap_nil, List.append_assoc,
    List.nil_append, List.length_append, bigEndian_length, size]
  rw [show 24 - (1 + (1 + (1 + (1 + (1 + (1 + detailSize n.detail)))))) = 18 - detailSize n.detail by omega]

theorem replyBytes_length (r : Reply) : (replyBytes r).length = 4 * (replyLength r - 1) := by
  unfold replyBytes
  split
  · rename_i none_; simp [replyLength, none_]
  · rename_i n notice
    obtain ⟨-, size, room⟩ := detailBytes_eq n.detail
    rw [noticeBytes_eq]
    simp [replyLength, notice, noticeFields, fieldsBytes, size]
    omega
  · rename_i p t empty
    simp [replyLength, empty, padTo]
  · simp

/-- The header of a reply frame (R176). -/
def replyHeader (r : Reply) : List Byte :=
  [BitVec.ofNat 8 (replyLength r), BitVec.ofNat 8 (replyNumber r.code), r.number, flagsByte r.flags]

theorem replyFrame_eq (r : Reply) : replyFrame r = replyHeader r ++ replyBytes r := by
  simp [replyFrame, bigEndian_one, replyHeader]

theorem replyFrame_length (r : Reply) : (replyFrame r).length = 4 * replyLength r := by
  have := (replyLength_bounds r).1
  rw [replyFrame_eq, List.length_append, replyBytes_length]
  simp [replyHeader]
  omega

theorem replyNumber_lt (c : ReplyCode) : replyNumber c < 256 := by cases c <;> decide

/-- The header of a reply frame opens it (R176). -/
theorem replyFrame_header (r : Reply) : ((replyFrame r).getD 0 0).toNat = replyLength r ∧
    ((replyFrame r).getD 1 0).toNat = replyNumber r.code ∧ (replyFrame r).getD 2 0 = r.number ∧
    (replyFrame r).getD 3 0 = flagsByte r.flags := by
  rw [replyFrame_eq]
  have length := (replyLength_bounds r).2.1
  exact ⟨Nat.mod_eq_of_lt (Nat.lt_succ_of_le length), Nat.mod_eq_of_lt (replyNumber_lt r.code), rfl, rfl⟩

/-- The frame that delivers a notice (R177). -/
theorem noticeFrame (r : Reply) (n : NoticeRecord) (notice : r.body = .notice n) :
    replyLength r = 7 ∧ LaidOut (replyFrame r) 4 (noticeFields n) ∧
      LaidOut (replyFrame r) 10 (detailFields n.detail) ∧
      ∀ i, 10 + detailSize n.detail ≤ i → i < 28 → (replyFrame r)[i]? = some 0 := by
  obtain ⟨⟨free, detail⟩, size, room⟩ := detailBytes_eq n.detail
  have frame : replyFrame r = replyHeader r ++ (fieldsBytes (noticeFields n) ++
      (detailBytes n.detail ++ List.replicate (18 - detailSize n.detail) 0)) := by
    rw [replyFrame_eq, replyBytes, notice, ← noticeBytes_eq]
  have front : (replyHeader r ++ fieldsBytes (noticeFields n)).length = 10 := by
    simp [replyHeader, noticeFields, fieldsBytes]
  refine ⟨by rw [replyLength, notice], laidOut_of_bytes frame rfl, laidOut_of_bytes (front := _ ++ _)
      (back := free ++ List.replicate (18 - detailSize n.detail) 0) ?_ front, fun i behind within => ?_⟩
  · rw [frame, List.append_assoc, detail, List.append_assoc]
  · rw [frame, ← List.append_assoc, ← List.append_assoc, List.getElem?_append_right (by
      rw [List.length_append, front, size]; exact behind), List.getElem?_replicate, if_pos]
    rw [List.length_append, front, size]
    omega

/-- The frame that says that nothing is deliverable (R177). -/
theorem noNoticeFrame (r : Reply) (p t : Nat) (empty : r.body = .noNotice p t) :
    replyLength r = 2 ∧ LaidOut (replyFrame r) 4 [(1, p), (1, t), (2, 0)] := by
  refine ⟨by rw [replyLength, empty], laidOut_of_bytes (front := replyHeader r) (back := []) ?_ rfl⟩
  rw [replyFrame_eq, replyBytes, empty]
  rfl

/-! ### READ (R173) -/

theorem readBytes_getElem (r : Reply) {n i : Nat} (within : i < n) :
    (readBytes r (.bytes n))[i]? = some ((replyFrame r).getD i 0) := by
  have taken : ((replyFrame r).take n).length = min n (replyFrame r).length := List.length_take
  rw [readBytes, padTo, List.getElem?_append, List.getElem?_take_of_lt within, List.getElem?_replicate, taken,
    List.getD_eq_getElem?_getD]
  split
  · rename_i here
    rw [List.getElem?_eq_getElem (by omega)]; rfl
  · rename_i beyond
    rw [if_pos (by omega), List.getElem?_eq_none (by omega)]; rfl

theorem readBytes_length (r : Reply) (n : Nat) : (readBytes r (.bytes n)).length = n :=
  padTo_length (List.length_take_le ..)

/-- The state after a READ that finds a reply. -/
theorem exec_read {p : Port} {extent : ReadExtent} {s : State} {r : Reply} (running : s.resetHeld = false)
    (here : (s.links.get p).reply = some r) : exec (.read p extent) s = .next { s with
      links := s.links.modify p fun l => { l with
        out := some ⟨statusByte s p, readBytes r extent⟩, reply := if readsWhole r extent then none else some r } } := by
  cases whole : readsWhole r extent <;> simp [exec, execRead, running, here, whole, clockOut, modLink, Tab.modify]

/-- Settles O4. -/
theorem statusAndRead : Obligations.StatusAndRead := by
  refine ⟨fun p selector s => ⟨fun held => ?_, fun running => ?_⟩, fun p extent s running => ⟨fun empty => ?_, fun r here => ?_⟩,
    fun r => ?_, rfl, rfl⟩
  · simp [exec, execStatus, held, releaseOut, modLink]
  · exact ⟨_, rfl, by simp [exec, execStatus, running, clockOut, modLink], marks_getLsbD _ _ _ _⟩
  · simp [exec, execRead, running, empty, clockOut, modLink]
  · rw [exec_read running here]
    refine ⟨?_, fun n bytes => ⟨readBytes r (.bytes n), readBytes_length r n, fun i within => readBytes_getElem r within, ?_⟩⟩
    · rintro rfl; rfl
    · subst bytes
      simp [readsWhole]
  · obtain ⟨length, code, number, flags⟩ := replyFrame_header r
    obtain ⟨-, -, two⟩ := replyLength_bounds r
    refine ⟨replyFrame_length r, length, code, number, ?_, fun none_ => by rw [replyLength, none_], two,
      fun n notice => noticeFrame r n notice, fun p t empty => noNoticeFrame r p t empty⟩
    dsimp only
    rw [flags]
    exact marks_getLsbD _ _ _ _

end Sys2Proof.Machine
end
